-- ==== Sys2Proof/Word.lean ====
section
/-! DEFINITION. The byte, and short byte strings. A byte is 8 bits, bit 0 the least significant (00_scope.md R10); byte
strings carry no integer reading (10_state.md R24, 20_memory.md R52). -/

namespace Sys2Proof

/-- An octet (R10). -/
abbrev Byte := BitVec 8

/-- Two bytes in frame order: `SIG[0..1]`, a byte string and not an integer (R24). -/
structure Bytes2 where
  b0 : Byte
  b1 : Byte
deriving DecidableEq, Repr

/-- Three bytes in order: the session tag (R163). -/
structure Bytes3 where
  b0 : Byte
  b1 : Byte
  b2 : Byte
deriving DecidableEq, Repr

/-- Four bytes in frame order: the Nonce, `MARKER[0..3]`, the Freshness block (R70). -/
structure Bytes4 where
  b0 : Byte
  b1 : Byte
  b2 : Byte
  b3 : Byte
deriving DecidableEq, Repr

/-- `zeros(n)`: `n` bytes of 0x00 (R11). -/
abbrev zeros (n : Nat) : List Byte := List.replicate n 0x00#8

end Sys2Proof
end

