-- ==== Sys2Proof/Syntax.lean ====
section
/-! DEFINITION. The instructions, one constructor per row of spec/opcode_table.json: thirteen command rows (format CMD16,
30_encoding.md R80, R81) and eight frame rows (format FRAME33, R70, R71, R77). -/

namespace Sys2Proof

/-- The four AntiReplayStrategy variants, in the order of their `KIND` codes 0 to 3 (10_state.md R23). -/
inductive StrategyKind where
  | counterEcho
  | counterWithSignature
  | rollingSessionId
  | tickOnly
deriving DecidableEq, Repr

/-- One constructor per row of the opcode table. A frame row's operands are the letter groups of its pattern that the
row's constraints leave free; the letters `e`, `w`, `p`, `q` are copies and `k` is the checksum. -/
inductive Instr where
  /-- NOP, word 0000 (R143). -/
  | nop
  /-- CRC_CLR, word 1000 (R104). -/
  | crcClr
  /-- CRC_UPD d, word 20dd (R105). -/
  | crcUpd (d : Byte)
  /-- CRC_CMP d, word 30dd (R106). -/
  | crcCmp (d : Byte)
  /-- CFG_WR 0, d, word 400d with d at most 0x07 (R81, R172). -/
  | cfgWrCtrl (d : Byte)
  /-- CFG_WR 1, d, word 41dd. -/
  | cfgWrMarker0 (d : Byte)
  /-- CFG_WR 2, d, word 42dd. -/
  | cfgWrMarker1 (d : Byte)
  /-- CFG_WR 3, d, word 43dd. -/
  | cfgWrMarker2 (d : Byte)
  /-- CFG_WR 4, d, word 44dd. -/
  | cfgWrMarker3 (d : Byte)
  /-- CFG_WR 5, d, word 45dd. -/
  | cfgWrSig0 (d : Byte)
  /-- CFG_WR 6, d, word 46dd. -/
  | cfgWrSig1 (d : Byte)
  /-- BUILD op, word 50oo (R130). Every byte is a legal operand; all but 0x01 and 0x02 complete with InvalidOpcode (R74). -/
  | build (op : Byte)
  /-- RELEASE, word 6000 (R142). -/
  | release
  /-- FRAME.CE.OPEN: the CounterEcho frame of counter `n`, opcode 0x01 (R132). -/
  | frameCeOpen (n : BitVec 32)
  /-- FRAME.CE.CLOSE: as above with opcode 0x02. -/
  | frameCeClose (n : BitVec 32)
  /-- FRAME.CWS.OPEN: the CounterWithSignature frame of counter `n`, marker `m`, signature `g`, bucket value `v` (R133). -/
  | frameCwsOpen (n : BitVec 32) (m : Bytes4) (g : Bytes2) (v : BitVec 16)
  /-- FRAME.CWS.CLOSE: as above with opcode 0x02. -/
  | frameCwsClose (n : BitVec 32) (m : Bytes4) (g : Bytes2) (v : BitVec 16)
  /-- FRAME.RSI.OPEN: the RollingSessionId frame of counter byte `c`, tag `t`, hour `hh`, minute `mm` (R134). -/
  | frameRsiOpen (c : Byte) (t : Bytes3) (hh mm : Byte)
  /-- FRAME.RSI.CLOSE: as above with opcode 0x02. -/
  | frameRsiClose (c : Byte) (t : Bytes3) (hh mm : Byte)
  /-- FRAME.TO.OPEN: the TickOnly frame of counter `n`, hour `hh`, minute `mm` (R135). -/
  | frameToOpen (n : BitVec 32) (hh mm : Byte)
  /-- FRAME.TO.CLOSE: as above with opcode 0x02. -/
  | frameToClose (n : BitVec 32) (hh mm : Byte)
deriving DecidableEq, Repr

/-- Why a command word is reserved: the rows of R88's table (its two rows on unused fields are one reason, R79). -/
inductive Reserved where
  /-- `cmd` is 0x7 to 0xF: no such command. -/
  | noSuchCommand
  /-- A field the command does not use is not zero (R79). -/
  | unusedFieldNotZero
  /-- CFG_WR with `idx` 7 to 15: no such configuration byte. -/
  | noSuchConfigByte
  /-- CFG_WR 0 with a bit of `data[7:3]` set: reserved bits of CTRL. -/
  | ctrlReservedBits
deriving DecidableEq, Repr

/-- Why 33 bytes are no frame of a given strategy: which of the row's fixed bits or constraints fails (R71, R72, R77). -/
inductive NotAFrame where
  /-- Not exactly 33 bytes (R72 item 1). -/
  | wrongLength
  /-- Byte 24 is neither 0x01 nor 0x02 (R72 item 5). -/
  | badOpcode
  /-- Bytes 4 to 7 are not bytes 0 to 3 (R72 item 3). -/
  | echoMismatch
  /-- A byte that the strategy's pattern fixes to zero is not zero (R71, R72 item 4). -/
  | fixedByteNotZero
  /-- Bytes 18, 19 are not bytes 16, 17 (R72 item 6). -/
  | freshnessNotMirrored
  /-- Byte 32 is not the checksum of bytes 0 to 31 (R72 item 2). -/
  | checksumMismatch
deriving DecidableEq, Repr

/-- The two encoding formats: one 16-bit command word (R78), or 33 frame bytes, byte 0 first (R77). -/
inductive Encoded where
  | command (cw : BitVec 16)
  | frame (bytes : List Byte)
deriving DecidableEq, Repr

/-- Why the decoder gives no instruction. -/
inductive Reject where
  | reserved (why : Reserved)
  | notAFrame (why : NotAFrame)
deriving DecidableEq, Repr

end Sys2Proof
end

