-- ==== Sys2Proof/Machine/State.lean ====
section
/-! DEFINITION. The machine's state as plain data, its reset value, and the reasons a step can stop. The registers are the
whole state the spec gives (10_state.md section 1); `ports` and `pending` are the model's own: the inputs of the steps,
which Host.Core.step has no argument for (log entries 1 and 3). -/

namespace Sys2Proof.Machine

/-- The levels on the operand ports in one step (R28): inputs, not registers. -/
structure Ports where
  /-- `CTR`, 64 bits unsigned: the caller's local counter. -/
  ctr      : BitVec 64
  /-- `UNIX_TIME`, 64 bits unsigned, in seconds. -/
  unixTime : BitVec 64
  /-- `UTC_HOUR`, 8 bits unsigned, any value (R170). -/
  utcHour  : Byte
  /-- `UTC_MIN`, 8 bits unsigned, any value (R170). -/
  utcMin   : Byte
deriving DecidableEq, Repr

/-- What the host does between two moments: issue a command word with port values (R6), or assert reset (R220). -/
inductive Input where
  | command (cw : BitVec 16) (ports : Ports)
  | reset
deriving DecidableEq, Repr

/-- The FRAME space: (offset, byte) cells; an unlisted offset reads 0x00 (R34, log entry 8). -/
abbrev Memory := List Host.Cell

/-- The number of bytes of the FRAME space: offsets 0 to 32 (R50). -/
abbrev frameLen : Nat := 33

/-- The canonical form from address `lo` on: addresses strictly rising, inside the space, no byte 0x00 listed. -/
def Memory.wfFrom (lo : Nat) : Memory → Bool
  | [] => true
  | (a, b) :: m => decide (lo ≤ a) && decide (a < frameLen) && (b != 0x00#8) && Memory.wfFrom (a + 1) m

/-- The canonical form of the FRAME space, so that equal contents are equal data. -/
def Memory.wf (m : Memory) : Bool := Memory.wfFrom 0 m

/-- The configuration bytes `CFG[0..6]` (R23). -/
structure Cfg where
  /-- `CFG[0]`, `CTRL`: `KIND` [1:0], `BSEL` [2], [7:3] reserved. -/
  ctrl    : Byte
  marker0 : Byte
  marker1 : Byte
  marker2 : Byte
  marker3 : Byte
  sig0    : Byte
  sig1    : Byte
deriving DecidableEq, Repr

/-- The machine. -/
structure State where
  /-- `ACC`, the checksum accumulator (R20). -/
  acc     : Byte
  /-- `FRAME[0..32]` (R21). -/
  frame   : Memory
  /-- `CFG[0..6]` (R23). -/
  cfg     : Cfg
  /-- `STATUS` (R25): `ERR` [1:0], `MATCH` [2], `FRAME_VALID` [3], `ERR_FIELD` [7:4]. -/
  status  : Byte
  /-- The model's own: the operand-port levels of the current step. -/
  ports   : Ports
  /-- The model's own: what the host will do, first entry first. -/
  pending : List Input
deriving DecidableEq, Repr

/-- Why a step stops with a fault. No command of the core takes one (R198). -/
inductive Fault where
  /-- An access to a FRAME offset above 32, which names nothing (R51). Raised by the memory operation of Ops.lean only;
  safe: every command's offsets are constants inside the buffer (R91), so no step reaches it. -/
  | noSuchFrameOffset (offset : Nat)
deriving DecidableEq, Repr

/-- Why the model gives a step no meaning. -/
inductive Refusal where
  /-- Raised by exec's arm of an instruction without a meaning; none is left. Safe: nothing can be proved of it. -/
  | notModelled (mnemonic : String)
  /-- Raised by step for a reserved command word, and by the meaning of CFG_WR 0 for an operand no word encodes: "a model
  must refuse it" (R88). Safe: the spec defines no behaviour, and none can be proved. -/
  | reservedWord (why : Reserved)
  /-- Raised by the meaning of a frame row where BUILD does not produce that frame from the present `CFG` and ports: the
  row names an output the core does not give there (R141, log entry 5). Safe: nothing can be proved of it. -/
  | frameNotProduced
deriving DecidableEq, Repr

/-- What a step of this machine answers. -/
abbrev Result := Host.Outcome State Fault Refusal

/-- The port levels the model names where the spec gives none: all zero (log entry 3). -/
def Ports.idle : Ports := ⟨0#64, 0#64, 0x00#8, 0x00#8⟩

/-- `CFG` after reset: seven zero bytes (R34). -/
def Cfg.reset : Cfg := ⟨0x00#8, 0x00#8, 0x00#8, 0x00#8, 0x00#8, 0x00#8, 0x00#8⟩

/-- The machine right after reset (R34); no command has arrived yet (R221). -/
def State.reset : State :=
  { acc := 0x00#8, frame := [], cfg := Cfg.reset, status := 0x00#8, ports := Ports.idle, pending := [] }

end Sys2Proof.Machine
end

