-- ==== Sys2Proof/Machine/Flags.lean ====
section
/-! DEFINITION. The fields of `STATUS` (10_state.md R25) and the codes they hold. Every write of a field leaves the other
bits of the register as they were (R26). -/

namespace Sys2Proof.Machine

/-- `STATUS.ERR` (R25): the outcome of the last BUILD or CRC_CMP. -/
inductive ErrKind where
  | ok
  | invalidOpcode
  | fieldOverflow
  | checksumMismatch
deriving DecidableEq, Repr

/-- `STATUS.ERR_FIELD` (R25): the field a FieldOverflow names. -/
inductive ErrField where
  | none
  | nonce
deriving DecidableEq, Repr

/-- The codes of `ERR` (R25, R190). -/
def errCode : ErrKind → BitVec 2
  | .ok => 0#2
  | .invalidOpcode => 1#2
  | .fieldOverflow => 2#2
  | .checksumMismatch => 3#2

/-- The codes of `ERR_FIELD` (R25). -/
def errFieldCode : ErrField → BitVec 4
  | .none => 0#4
  | .nonce => 1#4

/-- `STATUS.ERR`, bits [1:0]. -/
def statusErr (st : Byte) : BitVec 2 := st.extractLsb' 0 2

/-- `STATUS.MATCH`, bit [2]. -/
def statusMatch (st : Byte) : Bool := st.getLsbD 2

/-- `STATUS.FRAME_VALID`, bit [3]. -/
def statusFrameValid (st : Byte) : Bool := st.getLsbD 3

/-- `STATUS.ERR_FIELD`, bits [7:4]. -/
def statusErrField (st : Byte) : BitVec 4 := st.extractLsb' 4 4

/-- `STATUS` with `ERR` written. -/
def withErr (st : Byte) (c : BitVec 2) : Byte := (st &&& 0xFC#8) ||| c.setWidth 8

/-- `STATUS` with `MATCH` written. -/
def withMatch (st : Byte) (b : Bool) : Byte := (st &&& 0xFB#8) ||| (if b then 0x04#8 else 0x00#8)

/-- `STATUS` with `FRAME_VALID` written. -/
def withFrameValid (st : Byte) (b : Bool) : Byte := (st &&& 0xF7#8) ||| (if b then 0x08#8 else 0x00#8)

/-- `STATUS` with `ERR_FIELD` written. -/
def withErrField (st : Byte) (c : BitVec 4) : Byte := (st &&& 0x0F#8) ||| (c.setWidth 8 <<< 4)

end Sys2Proof.Machine
end

