-- ==== Sys2Proof/Config.lean ====
section
/-! DEFINITION. What one instance of the core fixes and the spec leaves open: the digest function of the session tag
(00_scope.md R9, 93_implementation_defined.md I1, I2). -/

namespace Sys2Proof

/-- A byte sequence of length at least three, by construction: R9 allows a proof no more than this. -/
structure DigestOutput where
  b0   : Byte
  b1   : Byte
  b2   : Byte
  rest : List Byte
deriving DecidableEq, Repr, Inhabited

/-- `DIGEST` (R9): total, deterministic, at least three octets out, fixed for the instance. It has no body, so every
theorem holds for every digest (log entry 4). -/
opaque Config.digest : List Byte → DigestOutput

end Sys2Proof
end

