-- ==== Sys2Proof/Machine/Operands.lean ====
section
/-! DEFINITION. Operand assembly: every operand form of 30_encoding.md R75 and the primitives `LE32`, `BE16`, `dec` of
00_scope.md R12. All arithmetic is unsigned and exact (42_anti_replay_encoder.md R174). -/

namespace Sys2Proof.Machine

/-- Four zero bytes. -/
def zero4 : Bytes4 := ⟨0x00#8, 0x00#8, 0x00#8, 0x00#8⟩

/-- Two zero bytes. -/
def zero2 : Bytes2 := ⟨0x00#8, 0x00#8⟩

/-- The legal values of the `CTRL` byte: bits [7:3] zero (R23, R81). -/
def ctrlLegal (d : Byte) : Bool := decide (d.toNat ≤ 0x07)

/-- `LE32(v)` (R12): the low byte first. -/
def le32 (v : BitVec 32) : Bytes4 :=
  ⟨v.extractLsb' 0 8, v.extractLsb' 8 8, v.extractLsb' 16 8, v.extractLsb' 24 8⟩

/-- The 32-bit little-endian read of four bytes (R52). -/
def le32Value (q : Bytes4) : BitVec 32 := q.b3 ++ q.b2 ++ q.b1 ++ q.b0

/-- `BE16(v)` (R12): the high byte first. -/
def be16 (v : BitVec 16) : Bytes2 := ⟨v.extractLsb' 8 8, v.extractLsb' 0 8⟩

/-- The 16-bit big-endian read of two bytes (R52). -/
def be16Value (p : Bytes2) : BitVec 16 := p.b0 ++ p.b1

/-- Two bytes written twice in a row: "mirrored" (R166, R170). -/
def mirror (p : Bytes2) : Bytes4 := ⟨p.b0, p.b1, p.b0, p.b1⟩

/-- The range check of the 32-bit counter: `CTR ≤ 0xFFFFFFFF` (R161). -/
def counterFits (c : BitVec 64) : Bool := decide (c.toNat ≤ 0xFFFFFFFF)

/-- The 32-bit counter, `CTR[31:0]`, used after the range check (R75). -/
def counter32 (c : BitVec 64) : BitVec 32 := c.extractLsb' 0 32

/-- `c mod 256`, `CTR[7:0]` (R162). -/
def counterByte (c : BitVec 64) : Byte := c.extractLsb' 0 8

/-- `floor(t / w)` (R174). -/
def bucket (w : Nat) (t : BitVec 64) : Nat := t.toNat / w

/-- `floor(t / w) mod 65536` (R166). -/
def bucketValue (w : Nat) (t : BitVec 64) : BitVec 16 := BitVec.ofNat 16 (bucket w t)

/-- The digit `n mod 10` as its ASCII byte, 0x30 to 0x39 (R12). -/
def decDigit (n : Nat) : Byte := BitVec.ofNat 8 (0x30 + n % 10)

/-- At most `fuel` decimal digits of `n`, put before `tail`, least significant digit produced first. -/
def decDigits : Nat → Nat → List Byte → List Byte
  | 0, _, tail => tail
  | fuel + 1, n, tail =>
    if n / 10 = 0 then decDigit n :: tail else decDigits fuel (n / 10) (decDigit n :: tail)

/-- `dec(n)` (R12, R163): most significant digit first, no sign, no leading zeros, `dec(0) = "0"`. -/
def dec (n : Nat) : List Byte := decDigits (n + 1) n []

/-- `tag(t)` (R163): the digest's bytes 0, 1, 2, in its own order, on the numeral of the 300-second bucket. -/
def sessionTag (t : BitVec 64) : Bytes3 :=
  let d := Config.digest (dec (bucket 300 t))
  ⟨d.b0, d.b1, d.b2⟩

end Sys2Proof.Machine
end

