-- ==== Sys2Proof/Machine/Ops.lean ====
section
/-! DEFINITION. The shared operations over the registers, the FRAME space and the error report. `raise` is how every error
of the core is taken (00_scope.md R13, 60_exceptions.md R196): it saves nothing, changes no mode and transfers control
nowhere, so there is no return operation (R197). -/

namespace Sys2Proof.Machine

/-- One byte of the FRAME space; an unlisted offset reads 0x00. -/
def Memory.peek : Memory → Nat → Byte
  | [], _ => 0x00#8
  | (k, v) :: m, a => if k = a then v else Memory.peek m a

/-- The cells of consecutive bytes from an offset on; a zero byte is not listed. -/
def Memory.cells : Nat → List Byte → Memory
  | _, [] => []
  | a, b :: bs => if b = 0x00#8 then Memory.cells (a + 1) bs else (a, b) :: Memory.cells (a + 1) bs

/-- The cells at offsets below `a`. -/
def Memory.below (m : Memory) (a : Nat) : Memory := List.filter (fun c => decide (c.1 < a)) m

/-- The cells at offsets from `a` on. -/
def Memory.above (m : Memory) (a : Nat) : Memory := List.filter (fun c => decide (a ≤ c.1)) m

/-- Bytes written from an offset on, every other byte and the canonical form kept. -/
def Memory.store (m : Memory) (off : Nat) (bytes : List Byte) : Memory :=
  m.below off ++ (Memory.cells off bytes ++ m.above (off + bytes.length))

/-- `FRAME[0..32]` as a byte sequence, `FRAME[0]` first (R55). -/
def frameBytes (m : Memory) : List Byte := (List.range frameLen).map m.peek

/-- `MemWrite(FRAME, off, n, s)` (R12). An offset above 32 names nothing (R51) and faults. -/
def memWrite (off : Nat) (bytes : List Byte) (s : State) : Result :=
  if off + bytes.length ≤ frameLen then .next { s with frame := s.frame.store off bytes }
  else .fault (.noSuchFrameOffset (off + bytes.length - 1))

/-- `MemRead(FRAME, off, n)` (R12). -/
def memRead (off n : Nat) (s : State) : Except Fault (List Byte) :=
  if off + n ≤ frameLen then .ok ((List.range n).map fun k => s.frame.peek (off + k))
  else .error (.noSuchFrameOffset (off + n - 1))

/-- The rest of a rule after one of its writes. -/
def andThen (o : Result) (f : State → Result) : Result :=
  match o with
  | .next s => f s
  | .fault r => .fault r
  | .refused r => .refused r

/-- `ACC <- v`. -/
def writeAcc (v : Byte) (s : State) : State := { s with acc := v }

/-- `STATUS.MATCH <- b`. -/
def writeMatch (b : Bool) (s : State) : State := { s with status := withMatch s.status b }

/-- `STATUS.FRAME_VALID <- b`. -/
def writeFrameValid (b : Bool) (s : State) : State := { s with status := withFrameValid s.status b }

/-- `STATUS.ERR` and `STATUS.ERR_FIELD` written together. -/
def report (e : ErrKind) (info : ErrField) (s : State) : State :=
  { s with status := withErrField (withErr s.status (errCode e)) (errFieldCode info) }

/-- `raise E(info)` (R13, R196): the two status fields, and nothing else. -/
def raise (e : ErrKind) (info : ErrField) (s : State) : State := report e info s

/-- The success report of BUILD and CRC_CMP: `ERR <- 0`, `ERR_FIELD <- 0` (R26). -/
def reportOk (s : State) : State := report .ok .none s

/-- `CFG[i]`; none for an `idx` above 6, which names nothing (R51). -/
def Cfg.read (c : Cfg) : Nat → Option Byte
  | 0 => some c.ctrl
  | 1 => some c.marker0
  | 2 => some c.marker1
  | 3 => some c.marker2
  | 4 => some c.marker3
  | 5 => some c.sig0
  | 6 => some c.sig1
  | _ => none

/-- `CFG[i] <- d` (R172); nothing is written for an `idx` above 6. -/
def Cfg.write (c : Cfg) (i : Nat) (d : Byte) : Cfg :=
  match i with
  | 0 => { c with ctrl := d }
  | 1 => { c with marker0 := d }
  | 2 => { c with marker1 := d }
  | 3 => { c with marker2 := d }
  | 4 => { c with marker3 := d }
  | 5 => { c with sig0 := d }
  | 6 => { c with sig1 := d }
  | _ => c

/-- `CFG[i] <- d` in the machine. -/
def writeCfg (i : Nat) (d : Byte) (s : State) : State := { s with cfg := s.cfg.write i d }

/-- The strategy of a `KIND` code (R23). -/
def kindOfCode (k : BitVec 2) : StrategyKind :=
  match k.toNat with
  | 0 => .counterEcho
  | 1 => .counterWithSignature
  | 2 => .rollingSessionId
  | _ => .tickOnly

/-- The `KIND` code of a strategy (R23). -/
def codeOfKind : StrategyKind → BitVec 2
  | .counterEcho => 0#2
  | .counterWithSignature => 1#2
  | .rollingSessionId => 2#2
  | .tickOnly => 3#2

/-- `CFG.KIND`, `CFG[0][1:0]` (R23). -/
def Cfg.kind (c : Cfg) : StrategyKind := kindOfCode (c.ctrl.extractLsb' 0 2)

/-- `CFG.BSEL`, `CFG[0][2]` (R23). -/
def Cfg.bsel (c : Cfg) : Bool := c.ctrl.getLsbD 2

/-- The bucket width `W` in seconds (R23, R166). -/
def Cfg.bucketWidth (c : Cfg) : Nat := if c.bsel then 60 else 30

/-- `MARKER[0..3]` (R23, R24). -/
def Cfg.marker (c : Cfg) : Bytes4 := ⟨c.marker0, c.marker1, c.marker2, c.marker3⟩

/-- `SIG[0..1]` (R23, R24). -/
def Cfg.sig (c : Cfg) : Bytes2 := ⟨c.sig0, c.sig1⟩

/-- Reset asserted (R220): every register at its reset value whatever the state before. It samples no port and leaves the
host's stream alone (R221, log entry 2). -/
def assertReset (s : State) : State := { State.reset with ports := s.ports, pending := s.pending }

end Sys2Proof.Machine
end

