-- ==== Sys2Proof/WellFormed.lean ====
section
/-! DEFINITION. Which instruction terms stand for a row's words. The one operand with a bound is CFG_WR 0's data byte, whose
bits [7:3] are reserved (30_encoding.md R81, R88); every other operand may hold any value of its type. -/

namespace Sys2Proof

/-- The check of one instruction's operands. -/
def Instr.wellFormed : Instr → Bool
  | .nop => true
  | .crcClr => true
  | .crcUpd _ => true
  | .crcCmp _ => true
  | .cfgWrCtrl d => Machine.ctrlLegal d
  | .cfgWrMarker0 _ => true
  | .cfgWrMarker1 _ => true
  | .cfgWrMarker2 _ => true
  | .cfgWrMarker3 _ => true
  | .cfgWrSig0 _ => true
  | .cfgWrSig1 _ => true
  | .build _ => true
  | .release => true
  | .frameCeOpen _ => true
  | .frameCeClose _ => true
  | .frameCwsOpen _ _ _ _ => true
  | .frameCwsClose _ _ _ _ => true
  | .frameRsiOpen _ _ _ _ => true
  | .frameRsiClose _ _ _ _ => true
  | .frameToOpen _ _ _ => true
  | .frameToClose _ _ _ => true

/-- An instruction that some words encode. -/
abbrev Instr.WellFormed (i : Instr) : Prop := i.wellFormed = true

end Sys2Proof
end

