-- ==== Sys2Proof/Machine/AntiReplay.lean ====
section
/-! DEFINITION. The anti-replay encoder: the fields a strategy supplies (42_anti_replay_encoder.md R160 to R171) and the
command CFG_WR that selects it (R172). -/

namespace Sys2Proof.Machine

/-- `derive_nonce` (R164, R160, R162); called after the range check for the 32-bit kinds. -/
def deriveNonce (kind : StrategyKind) (p : Ports) : Bytes4 :=
  match kind with
  | .counterEcho => le32 (counter32 p.ctr)
  | .counterWithSignature => le32 (counter32 p.ctr)
  | .rollingSessionId =>
    let t := sessionTag p.unixTime
    ⟨counterByte p.ctr, t.b0, t.b1, t.b2⟩
  | .tickOnly => le32 (counter32 p.ctr)

/-- `derive_freshness` (R167): the zero form (R171), the bucket form (R166) or the hour-minute form (R170). -/
def deriveFreshness (kind : StrategyKind) (c : Cfg) (p : Ports) : Bytes4 :=
  match kind with
  | .counterEcho => zero4
  | .counterWithSignature => mirror (be16 (bucketValue c.bucketWidth p.unixTime))
  | .rollingSessionId => mirror ⟨p.utcHour, p.utcMin⟩
  | .tickOnly => mirror ⟨p.utcHour, p.utcMin⟩

/-- `select_session` (R168). -/
def selectSession (kind : StrategyKind) (c : Cfg) : Bytes4 :=
  match kind with
  | .counterEcho => zero4
  | .counterWithSignature => c.marker
  | .rollingSessionId => zero4
  | .tickOnly => zero4

/-- `select_signature` (R169). -/
def selectSignature (kind : StrategyKind) (c : Cfg) : Bytes2 :=
  match kind with
  | .counterEcho => zero2
  | .counterWithSignature => c.sig
  | .rollingSessionId => zero2
  | .tickOnly => zero2

/-- Whether a strategy's nonce holds the 32-bit counter, and so has the range check (R161). -/
def usesCounter32 (kind : StrategyKind) : Bool :=
  match kind with
  | .counterEcho => true
  | .counterWithSignature => true
  | .rollingSessionId => false
  | .tickOnly => true

/-- CFG_WR 0, d (R172). An operand above 0x07 is no CFG_WR but a reserved word (R88), and is refused. -/
def execCfgWrCtrl (d : Byte) (s : State) : Result :=
  if ctrlLegal d then .next (writeCfg 0 d s) else .refused (.reservedWord .ctrlReservedBits)

/-- CFG_WR 1, d (R172). -/
def execCfgWrMarker0 (d : Byte) (s : State) : Result := .next (writeCfg 1 d s)

/-- CFG_WR 2, d (R172). -/
def execCfgWrMarker1 (d : Byte) (s : State) : Result := .next (writeCfg 2 d s)

/-- CFG_WR 3, d (R172). -/
def execCfgWrMarker2 (d : Byte) (s : State) : Result := .next (writeCfg 3 d s)

/-- CFG_WR 4, d (R172). -/
def execCfgWrMarker3 (d : Byte) (s : State) : Result := .next (writeCfg 4 d s)

/-- CFG_WR 5, d (R172). -/
def execCfgWrSig0 (d : Byte) (s : State) : Result := .next (writeCfg 5 d s)

/-- CFG_WR 6, d (R172). -/
def execCfgWrSig1 (d : Byte) (s : State) : Result := .next (writeCfg 6 d s)

end Sys2Proof.Machine
end

