-- ==== Sys2Proof/Machine/Checksum.lean ====
section
/-! DEFINITION. The checksum functions `crc8_step` and `crc8` (40_checksum_engine.md R100 to R102). The parameters and the
processing rule are normative, the source's name "SMBus" is not (90_conflicts.md C1). -/

namespace Sys2Proof.Machine

/-- One shift iteration of R100: bit 0 is tested before the logical shift; 0x8C is the reflected polynomial (R102). -/
def crc8Shift (r : Byte) : Byte :=
  if r.getLsbD 0 then (r >>> 1) ^^^ 0x8C#8 else r >>> 1

/-- `n` shift iterations. -/
def crc8Rounds : Nat → Byte → Byte
  | 0, r => r
  | n + 1, r => crc8Rounds n (crc8Shift r)

/-- `crc8_step(acc, d)` (R100). -/
def crc8Step (acc d : Byte) : Byte := crc8Rounds 8 (acc ^^^ d)

/-- `crc8_step` folded over a sequence from `acc`, index order (R107, R54). -/
def crc8From (acc : Byte) : List Byte → Byte
  | [] => acc
  | d :: s => crc8From (crc8Step acc d) s

/-- `crc8(s)` (R101): initial value 0x00, no final XOR, defined for every length. -/
def crc8 (s : List Byte) : Byte := crc8From 0x00#8 s

end Sys2Proof.Machine
end

