-- ==== Sys2Proof/Machine/ChecksumEngine.lean ====
section
/-! DEFINITION. The checksum engine's commands: CRC_CLR, CRC_UPD, CRC_CMP (40_checksum_engine.md R104 to R106). -/

namespace Sys2Proof.Machine

/-- CRC_CLR (R104). -/
def execCrcClr (s : State) : Result := .next (writeAcc 0x00#8 s)

/-- CRC_UPD d (R105). -/
def execCrcUpd (d : Byte) (s : State) : Result := .next (writeAcc (crc8Step s.acc d) s)

/-- CRC_CMP d (R106): `MATCH` is the boolean answer and `ERR` says the same as a status (90_conflicts.md C3); `ACC` is not
consumed. -/
def execCrcCmp (d : Byte) (s : State) : Result :=
  if s.acc = d then .next (writeMatch true (reportOk s))
  else .next (writeMatch false (raise .checksumMismatch .none s))

end Sys2Proof.Machine
end

