-- ==== Sys2Proof/Machine/FrameFormat.lean ====
section
/-! DEFINITION. The CommandFrame layout, format FRAME33 (30_encoding.md R70, R71). Echo stands at offsets 4 to 7 and
Session/Fixed at 8 to 11 for every strategy (R73, 90_conflicts.md C2). -/

namespace Sys2Proof.Machine

/-- The fields of a body that are not copies, constants or the checksum (R70). -/
structure BodyFields where
  nonce   : Bytes4
  session : Bytes4
  sig     : Bytes2
  fresh   : Bytes4
  op      : Byte
deriving DecidableEq, Repr

/-- The bytes of a four-byte field, in frame order. -/
def list4 (q : Bytes4) : List Byte := [q.b0, q.b1, q.b2, q.b3]

/-- The bytes of a two-byte field, in frame order. -/
def list2 (p : Bytes2) : List Byte := [p.b0, p.b1]

/-- The 32 body bytes (R130, steps 1 to 5 of R136): the nonce twice (R165), then the other fields and the reserved zeros. -/
def layout (f : BodyFields) : List Byte :=
  list4 f.nonce ++ list4 f.nonce ++ list4 f.session ++ list2 f.sig ++ zeros 2 ++ list4 f.fresh ++ zeros 4 ++ [f.op]
    ++ zeros 7

/-- A body followed by its checksum (R137). -/
def sealed (body : List Byte) : List Byte := body ++ [crc8 body]

/-- The CounterEcho column of R71. -/
def fieldsCe (n : BitVec 32) (op : Byte) : BodyFields := ⟨le32 n, zero4, zero2, zero4, op⟩

/-- The CounterWithSignature column of R71. -/
def fieldsCws (n : BitVec 32) (m : Bytes4) (g : Bytes2) (v : BitVec 16) (op : Byte) : BodyFields :=
  ⟨le32 n, m, g, mirror (be16 v), op⟩

/-- The RollingSessionId column of R71. -/
def fieldsRsi (c : Byte) (t : Bytes3) (hh mm : Byte) (op : Byte) : BodyFields :=
  ⟨⟨c, t.b0, t.b1, t.b2⟩, zero4, zero2, mirror ⟨hh, mm⟩, op⟩

/-- The TickOnly column of R71. -/
def fieldsTo (n : BitVec 32) (hh mm : Byte) (op : Byte) : BodyFields := ⟨le32 n, zero4, zero2, mirror ⟨hh, mm⟩, op⟩

end Sys2Proof.Machine

namespace Sys2Proof

/-- The strategy whose column of R71 a frame row is; none for a command row. -/
def Instr.frameKind : Instr → Option StrategyKind
  | .nop => none
  | .crcClr => none
  | .crcUpd _ => none
  | .crcCmp _ => none
  | .cfgWrCtrl _ => none
  | .cfgWrMarker0 _ => none
  | .cfgWrMarker1 _ => none
  | .cfgWrMarker2 _ => none
  | .cfgWrMarker3 _ => none
  | .cfgWrSig0 _ => none
  | .cfgWrSig1 _ => none
  | .build _ => none
  | .release => none
  | .frameCeOpen _ => some .counterEcho
  | .frameCeClose _ => some .counterEcho
  | .frameCwsOpen _ _ _ _ => some .counterWithSignature
  | .frameCwsClose _ _ _ _ => some .counterWithSignature
  | .frameRsiOpen _ _ _ _ => some .rollingSessionId
  | .frameRsiClose _ _ _ _ => some .rollingSessionId
  | .frameToOpen _ _ _ => some .tickOnly
  | .frameToClose _ _ _ => some .tickOnly

end Sys2Proof
end

