-- ==== Sys2Proof/Machine/FrameBuilder.lean ====
section
/-! DEFINITION. The frame builder: BUILD with its checks and completions, RELEASE, NOP (41_frame_builder.md R130 to R143),
and the eight frame rows of the opcode table, which are BUILD's successful completions named by the frame they leave. -/

namespace Sys2Proof.Machine

/-- BUILD's checks in their order: the opcode first, then the counter (R130, R194). -/
def buildError (op : Byte) (s : State) : Option (ErrKind × ErrField) :=
  if op ≠ 0x01#8 ∧ op ≠ 0x02#8 then some (.invalidOpcode, .none)
  else if usesCounter32 s.cfg.kind && !counterFits s.ports.ctr then some (.fieldOverflow, .nonce)
  else none

/-- The fields BUILD resolves under the configured strategy (steps 1 to 3 and 5 of R136). -/
def buildFields (op : Byte) (s : State) : BodyFields :=
  { nonce   := deriveNonce s.cfg.kind s.ports
    session := selectSession s.cfg.kind s.cfg
    sig     := selectSignature s.cfg.kind s.cfg
    fresh   := deriveFreshness s.cfg.kind s.cfg s.ports
    op      := op }

/-- FRAME emptied and `FRAME_VALID` cleared: what RELEASE and both error completions of BUILD do (R139, R140, R142). -/
def discardFrame (s : State) : Result :=
  andThen (memWrite 0 (zeros 33) s) fun s => .next (writeFrameValid false s)

/-- An error completion of BUILD (R139, R140). -/
def failBuild (e : ErrKind) (info : ErrField) (s : State) : Result := discardFrame (raise e info s)

/-- The successful completion of BUILD (R130): the body, its checksum (R137), the result. -/
def completeBuild (body : List Byte) (s : State) : Result :=
  andThen (memWrite 0 body s) fun s =>
    andThen (memWrite 32 [crc8 body] s) fun s => .next (writeFrameValid true (reportOk s))

/-- BUILD op (R130). It neither reads nor writes `ACC` (R131). -/
def execBuild (op : Byte) (s : State) : Result :=
  match buildError op s with
  | some (e, info) => failBuild e info s
  | none => completeBuild (layout (buildFields op s)) s

/-- RELEASE (R142). -/
def execRelease (s : State) : Result := discardFrame s

/-- NOP (R143). -/
def execNop (s : State) : Result := .next s

/-- The BUILD step that produces exactly the frame of `f` under strategy `kind`. Where the present configuration and ports
give another outcome the core makes no such frame, and the row is refused (log entry 5). -/
def buildYielding (kind : StrategyKind) (f : BodyFields) (s : State) : Result :=
  if s.cfg.kind = kind ∧ buildError f.op s = none ∧ buildFields f.op s = f then completeBuild (layout f) s
  else .refused .frameNotProduced

/-- FRAME.CE.OPEN (R132): produced by BUILD 0x01 under `KIND = 0`. -/
def execFrameCeOpen (n : BitVec 32) (s : State) : Result := buildYielding .counterEcho (fieldsCe n 0x01#8) s

/-- FRAME.CE.CLOSE (R132): produced by BUILD 0x02 under `KIND = 0`. -/
def execFrameCeClose (n : BitVec 32) (s : State) : Result := buildYielding .counterEcho (fieldsCe n 0x02#8) s

/-- FRAME.CWS.OPEN (R133): produced by BUILD 0x01 under `KIND = 1`. -/
def execFrameCwsOpen (n : BitVec 32) (m : Bytes4) (g : Bytes2) (v : BitVec 16) (s : State) : Result :=
  buildYielding .counterWithSignature (fieldsCws n m g v 0x01#8) s

/-- FRAME.CWS.CLOSE (R133): produced by BUILD 0x02 under `KIND = 1`. -/
def execFrameCwsClose (n : BitVec 32) (m : Bytes4) (g : Bytes2) (v : BitVec 16) (s : State) : Result :=
  buildYielding .counterWithSignature (fieldsCws n m g v 0x02#8) s

/-- FRAME.RSI.OPEN (R134): produced by BUILD 0x01 under `KIND = 2`. -/
def execFrameRsiOpen (c : Byte) (t : Bytes3) (hh mm : Byte) (s : State) : Result :=
  buildYielding .rollingSessionId (fieldsRsi c t hh mm 0x01#8) s

/-- FRAME.RSI.CLOSE (R134): produced by BUILD 0x02 under `KIND = 2`. -/
def execFrameRsiClose (c : Byte) (t : Bytes3) (hh mm : Byte) (s : State) : Result :=
  buildYielding .rollingSessionId (fieldsRsi c t hh mm 0x02#8) s

/-- FRAME.TO.OPEN (R135): produced by BUILD 0x01 under `KIND = 3`. -/
def execFrameToOpen (n : BitVec 32) (hh mm : Byte) (s : State) : Result :=
  buildYielding .tickOnly (fieldsTo n hh mm 0x01#8) s

/-- FRAME.TO.CLOSE (R135): produced by BUILD 0x02 under `KIND = 3`. -/
def execFrameToClose (n : BitVec 32) (hh mm : Byte) (s : State) : Result :=
  buildYielding .tickOnly (fieldsTo n hh mm 0x02#8) s

end Sys2Proof.Machine
end

