-- ==== Sys2Proof/Machine/Dispatch.lean ====
section
/-! DEFINITION. One arm per instruction, each one direct call of its meaning. -/

namespace Sys2Proof.Machine

def exec (i : Instr) (s : State) : Host.Outcome State Fault Refusal :=
  match i with
  | .nop => Sys2Proof.Machine.execNop s
  | .crcClr => Sys2Proof.Machine.execCrcClr s
  | .crcUpd d => Sys2Proof.Machine.execCrcUpd d s
  | .crcCmp d => Sys2Proof.Machine.execCrcCmp d s
  | .cfgWrCtrl d => Sys2Proof.Machine.execCfgWrCtrl d s
  | .cfgWrMarker0 d => Sys2Proof.Machine.execCfgWrMarker0 d s
  | .cfgWrMarker1 d => Sys2Proof.Machine.execCfgWrMarker1 d s
  | .cfgWrMarker2 d => Sys2Proof.Machine.execCfgWrMarker2 d s
  | .cfgWrMarker3 d => Sys2Proof.Machine.execCfgWrMarker3 d s
  | .cfgWrSig0 d => Sys2Proof.Machine.execCfgWrSig0 d s
  | .cfgWrSig1 d => Sys2Proof.Machine.execCfgWrSig1 d s
  | .build op => Sys2Proof.Machine.execBuild op s
  | .release => Sys2Proof.Machine.execRelease s
  | .frameCeOpen n => Sys2Proof.Machine.execFrameCeOpen n s
  | .frameCeClose n => Sys2Proof.Machine.execFrameCeClose n s
  | .frameCwsOpen n m g v => Sys2Proof.Machine.execFrameCwsOpen n m g v s
  | .frameCwsClose n m g v => Sys2Proof.Machine.execFrameCwsClose n m g v s
  | .frameRsiOpen c t hh mm => Sys2Proof.Machine.execFrameRsiOpen c t hh mm s
  | .frameRsiClose c t hh mm => Sys2Proof.Machine.execFrameRsiClose c t hh mm s
  | .frameToOpen n hh mm => Sys2Proof.Machine.execFrameToOpen n hh mm s
  | .frameToClose n hh mm => Sys2Proof.Machine.execFrameToClose n hh mm s

end Sys2Proof.Machine
end

