-- ==== Sys2Proof/Decode.lean ====
section
/-! DEFINITION. The decoder, total on every word and every byte list, then the encoder, both written from 30_encoding.md
R70 to R82 and R88. A command word's decoding never depends on state (R82). A frame does not say which strategy made it
(R76), so the frame decoder is given the strategy. -/

namespace Sys2Proof

open Machine

/-- The opcode byte of a frame as the choice of a row: 0x01 the OPEN row, 0x02 the CLOSE row, else none (R74). -/
def byOpcode (op : Byte) (openRow closeRow : Instr) : Except NotAFrame Instr :=
  if op = 0x01#8 then .ok openRow
  else if op = 0x02#8 then .ok closeRow
  else .error .badOpcode

/-- CFG_WR by `idx` (R81). -/
def decodeCfgWr (idx : Nat) (d : Byte) : Except Reserved Instr :=
  match idx with
  | 0 => if ctrlLegal d then .ok (.cfgWrCtrl d) else .error .ctrlReservedBits
  | 1 => .ok (.cfgWrMarker0 d)
  | 2 => .ok (.cfgWrMarker1 d)
  | 3 => .ok (.cfgWrMarker2 d)
  | 4 => .ok (.cfgWrMarker3 d)
  | 5 => .ok (.cfgWrSig0 d)
  | 6 => .ok (.cfgWrSig1 d)
  | _ => .error .noSuchConfigByte

/-- A command that takes no `idx` needs it zero (R79). -/
def needsNoIdx (idx : Nat) (i : Instr) : Except Reserved Instr :=
  if idx = 0 then .ok i else .error .unusedFieldNotZero

/-- A command that takes neither `idx` nor `data` needs both zero (R79). -/
def needsNoOperand (idx : Nat) (d : Byte) (i : Instr) : Except Reserved Instr :=
  if idx = 0 ∧ d = 0x00#8 then .ok i else .error .unusedFieldNotZero

/-- The command at code `cmd` (R80). -/
def decodeFields (cmd idx : Nat) (d : Byte) : Except Reserved Instr :=
  match cmd with
  | 0 => needsNoOperand idx d .nop
  | 1 => needsNoOperand idx d .crcClr
  | 2 => needsNoIdx idx (.crcUpd d)
  | 3 => needsNoIdx idx (.crcCmp d)
  | 4 => decodeCfgWr idx d
  | 5 => needsNoIdx idx (.build d)
  | 6 => needsNoOperand idx d .release
  | _ => .error .noSuchCommand

/-- The decoder of a command word: `cmd[15:12]`, `idx[11:8]`, `data[7:0]` (R78). -/
def decodeCommand (cw : BitVec 16) : Except Reserved Instr :=
  decodeFields (cw.extractLsb' 12 4).toNat (cw.extractLsb' 8 4).toNat (cw.extractLsb' 0 8)

/-- Byte `k` of a byte list, 0x00 past its end. -/
def byteAt (bytes : List Byte) (k : Nat) : Byte := bytes.getD k 0x00#8

/-- Four bytes of a list from offset `k`. -/
def bytes4At (bytes : List Byte) (k : Nat) : Bytes4 :=
  ⟨byteAt bytes k, byteAt bytes (k + 1), byteAt bytes (k + 2), byteAt bytes (k + 3)⟩

/-- The free fields of a frame, at the offsets of R70. -/
def fieldsOfFrame (bytes : List Byte) : BodyFields :=
  { nonce   := bytes4At bytes 0
    session := bytes4At bytes 8
    sig     := ⟨byteAt bytes 12, byteAt bytes 13⟩
    fresh   := bytes4At bytes 16
    op      := byteAt bytes 24 }

/-- The offsets that are zero whatever the strategy (R72 item 4). -/
def reservedOffsets : List Nat := [14, 15, 20, 21, 22, 23, 25, 26, 27, 28, 29, 30, 31]

/-- The row of a strategy that given fields belong to: the zero cells of the strategy's column of R71, then the opcode. -/
def rowOfFields (kind : StrategyKind) (f : BodyFields) : Except NotAFrame Instr :=
  match kind with
  | .counterEcho =>
    if f.session = zero4 ∧ f.sig = zero2 ∧ f.fresh = zero4 then
      byOpcode f.op (.frameCeOpen (le32Value f.nonce)) (.frameCeClose (le32Value f.nonce))
    else .error .fixedByteNotZero
  | .counterWithSignature =>
    byOpcode f.op
      (.frameCwsOpen (le32Value f.nonce) f.session f.sig (be16Value ⟨f.fresh.b0, f.fresh.b1⟩))
      (.frameCwsClose (le32Value f.nonce) f.session f.sig (be16Value ⟨f.fresh.b0, f.fresh.b1⟩))
  | .rollingSessionId =>
    if f.session = zero4 ∧ f.sig = zero2 then
      byOpcode f.op
        (.frameRsiOpen f.nonce.b0 ⟨f.nonce.b1, f.nonce.b2, f.nonce.b3⟩ f.fresh.b0 f.fresh.b1)
        (.frameRsiClose f.nonce.b0 ⟨f.nonce.b1, f.nonce.b2, f.nonce.b3⟩ f.fresh.b0 f.fresh.b1)
    else .error .fixedByteNotZero
  | .tickOnly =>
    if f.session = zero4 ∧ f.sig = zero2 then
      byOpcode f.op
        (.frameToOpen (le32Value f.nonce) f.fresh.b0 f.fresh.b1)
        (.frameToClose (le32Value f.nonce) f.fresh.b0 f.fresh.b1)
    else .error .fixedByteNotZero

/-- The decoder of a frame of strategy `kind`: every bit of the 33 bytes is checked or read (R71, R72, R77). -/
def decodeFrame (kind : StrategyKind) (bytes : List Byte) : Except NotAFrame Instr :=
  if bytes.length ≠ 33 then .error .wrongLength
  else if bytes4At bytes 4 ≠ bytes4At bytes 0 then .error .echoMismatch
  else if ¬ reservedOffsets.all (fun k => byteAt bytes k == 0x00#8) then .error .fixedByteNotZero
  else if byteAt bytes 18 ≠ byteAt bytes 16 ∨ byteAt bytes 19 ≠ byteAt bytes 17 then
    .error .freshnessNotMirrored
  else if byteAt bytes 32 ≠ crc8 (bytes.take 32) then .error .checksumMismatch
  else rowOfFields kind (fieldsOfFrame bytes)

/-- The decoder of either format. -/
def decode (kind : StrategyKind) (e : Encoded) : Except Reject Instr :=
  match e with
  | .command cw => (decodeCommand cw).mapError Reject.reserved
  | .frame bytes => (decodeFrame kind bytes).mapError Reject.notAFrame

/-- A command word from its fields (R78). -/
def commandWord (cmd idx : BitVec 4) (d : Byte) : BitVec 16 := cmd ++ idx ++ d

/-- The encoder: the word of a command (R80, R81), the 33 bytes of a frame row (R71). -/
def encode : Instr → Encoded
  | .nop => .command (commandWord 0x0#4 0x0#4 0x00#8)
  | .crcClr => .command (commandWord 0x1#4 0x0#4 0x00#8)
  | .crcUpd d => .command (commandWord 0x2#4 0x0#4 d)
  | .crcCmp d => .command (commandWord 0x3#4 0x0#4 d)
  | .cfgWrCtrl d => .command (commandWord 0x4#4 0x0#4 d)
  | .cfgWrMarker0 d => .command (commandWord 0x4#4 0x1#4 d)
  | .cfgWrMarker1 d => .command (commandWord 0x4#4 0x2#4 d)
  | .cfgWrMarker2 d => .command (commandWord 0x4#4 0x3#4 d)
  | .cfgWrMarker3 d => .command (commandWord 0x4#4 0x4#4 d)
  | .cfgWrSig0 d => .command (commandWord 0x4#4 0x5#4 d)
  | .cfgWrSig1 d => .command (commandWord 0x4#4 0x6#4 d)
  | .build op => .command (commandWord 0x5#4 0x0#4 op)
  | .release => .command (commandWord 0x6#4 0x0#4 0x00#8)
  | .frameCeOpen n => .frame (sealed (layout (fieldsCe n 0x01#8)))
  | .frameCeClose n => .frame (sealed (layout (fieldsCe n 0x02#8)))
  | .frameCwsOpen n m g v => .frame (sealed (layout (fieldsCws n m g v 0x01#8)))
  | .frameCwsClose n m g v => .frame (sealed (layout (fieldsCws n m g v 0x02#8)))
  | .frameRsiOpen c t hh mm => .frame (sealed (layout (fieldsRsi c t hh mm 0x01#8)))
  | .frameRsiClose c t hh mm => .frame (sealed (layout (fieldsRsi c t hh mm 0x02#8)))
  | .frameToOpen n hh mm => .frame (sealed (layout (fieldsTo n hh mm 0x01#8)))
  | .frameToClose n hh mm => .frame (sealed (layout (fieldsTo n hh mm 0x02#8)))

/-- A command row of the opcode table: the words `cw` with `cw and mask = bits` (R80, R81). -/
structure CommandRow where
  mnemonic : String
  bits     : BitVec 16
  mask     : BitVec 16
deriving DecidableEq, Repr

/-- Whether a word has a row's pattern. -/
def CommandRow.accepts (r : CommandRow) (cw : BitVec 16) : Bool := cw &&& r.mask == r.bits

/-- The thirteen CMD16 rows of the opcode table (R80, R81). -/
def commandRows : List CommandRow :=
  [⟨"NOP", 0x0000#16, 0xFFFF#16⟩, ⟨"CRC_CLR", 0x1000#16, 0xFFFF#16⟩, ⟨"CRC_UPD", 0x2000#16, 0xFF00#16⟩,
   ⟨"CRC_CMP", 0x3000#16, 0xFF00#16⟩, ⟨"CFG_WR.CTRL", 0x4000#16, 0xFFF8#16⟩,
   ⟨"CFG_WR.MARKER0", 0x4100#16, 0xFF00#16⟩, ⟨"CFG_WR.MARKER1", 0x4200#16, 0xFF00#16⟩,
   ⟨"CFG_WR.MARKER2", 0x4300#16, 0xFF00#16⟩, ⟨"CFG_WR.MARKER3", 0x4400#16, 0xFF00#16⟩,
   ⟨"CFG_WR.SIG0", 0x4500#16, 0xFF00#16⟩, ⟨"CFG_WR.SIG1", 0x4600#16, 0xFF00#16⟩,
   ⟨"BUILD", 0x5000#16, 0xFF00#16⟩, ⟨"RELEASE", 0x6000#16, 0xFFFF#16⟩]

/-- The mnemonic of an instruction's row, as the opcode table spells it. -/
def Instr.mnemonic : Instr → String
  | .nop => "NOP"
  | .crcClr => "CRC_CLR"
  | .crcUpd _ => "CRC_UPD"
  | .crcCmp _ => "CRC_CMP"
  | .cfgWrCtrl _ => "CFG_WR.CTRL"
  | .cfgWrMarker0 _ => "CFG_WR.MARKER0"
  | .cfgWrMarker1 _ => "CFG_WR.MARKER1"
  | .cfgWrMarker2 _ => "CFG_WR.MARKER2"
  | .cfgWrMarker3 _ => "CFG_WR.MARKER3"
  | .cfgWrSig0 _ => "CFG_WR.SIG0"
  | .cfgWrSig1 _ => "CFG_WR.SIG1"
  | .build _ => "BUILD"
  | .release => "RELEASE"
  | .frameCeOpen _ => "FRAME.CE.OPEN"
  | .frameCeClose _ => "FRAME.CE.CLOSE"
  | .frameCwsOpen _ _ _ _ => "FRAME.CWS.OPEN"
  | .frameCwsClose _ _ _ _ => "FRAME.CWS.CLOSE"
  | .frameRsiOpen _ _ _ _ => "FRAME.RSI.OPEN"
  | .frameRsiClose _ _ _ _ => "FRAME.RSI.CLOSE"
  | .frameToOpen _ _ _ => "FRAME.TO.OPEN"
  | .frameToClose _ _ _ => "FRAME.TO.CLOSE"

/-- The 33 bytes of a number whose bits 7..0 are byte 0, bits 15..8 byte 1, and so on. The spec reads no frame as a number:
for a FRAME33 row this order is the model's DESIGN CHOICE (log entry 12). As an enumeration of change patterns it puts
stream position `j` (R53, R54) at bit `j`. -/
def frameOfNat (w : Nat) : List Byte := (List.range 33).map fun k => BitVec.ofNat 8 (w >>> (8 * k))

/-- The first success of two decodings. -/
def firstOk (a b : Option Instr) : Option Instr :=
  match a with
  | some i => some i
  | none => b

/-- A frame given without its strategy. The patterns overlap (R76): the most specific strategy is taken first, and every
RollingSessionId frame is a TickOnly frame too, read as such (log entry 6). -/
def decodeFrameAnyKind (bytes : List Byte) : Option Instr :=
  firstOk (decodeFrame .counterEcho bytes).toOption
    (firstOk (decodeFrame .tickOnly bytes).toOption (decodeFrame .counterWithSignature bytes).toOption)

/-- The host's question: the instruction whose bits are `w`. A row of 16 bits is a command word, numbered as R78 numbers
it. A row of 264 bits is a frame. How its bits read as one number the spec leaves open (R77 orders only the pattern string,
98_reader.md reads no row over 32 bits): byte 0 in bits 7..0, byte 1 in bits 15..8 and so on is the model's DESIGN CHOICE
(log entry 12), and so are the answer none for another length and the strategy a frame is read under (log entry 6). -/
def decodeTableWord (nbits w : Nat) : Option Instr :=
  if nbits ≤ 16 then (decodeCommand (BitVec.ofNat 16 w)).toOption
  else if nbits = 264 then decodeFrameAnyKind (frameOfNat w)
  else none

end Sys2Proof
end

