-- ==== Sys2Proof/Machine/Fetch.lean ====
section
/-! DEFINITION. Where a step's command comes from: the head of the host's stream (00_scope.md R6, 10_state.md R28, R29),
and how the host places one there. -/

namespace Sys2Proof.Machine

/-- What the host presents to one step. -/
inductive Fetched where
  /-- Nothing: the core does nothing until a command arrives (R221). -/
  | idle
  /-- Reset is asserted; the state after it. -/
  | reset (s : State)
  /-- A command word; the state with its port levels driven and the entry taken from the stream. -/
  | command (cw : BitVec 16) (s : State)
deriving DecidableEq, Repr

/-- The head of the stream. -/
def fetch (s : State) : Fetched :=
  match s.pending with
  | [] => .idle
  | .reset :: rest => .reset (assertReset { s with pending := rest })
  | .command cw p :: rest => .command cw { s with ports := p, pending := rest }

/-- The host issues a word next, with given port levels. -/
def present (cw : BitVec 16) (p : Ports) (s : State) : State := { s with pending := .command cw p :: s.pending }

/-- The port levels for a frame of a 32-bit counter. -/
def portsFor (n : BitVec 32) (t : BitVec 64) (hh mm : Byte) : Ports := ⟨n.setWidth 64, t, hh, mm⟩

/-- The configuration and the BUILD command whose step produces a frame row; a command row is issued as its own word.
A RollingSessionId row takes its tag from the digest, which no port value can choose, so only its counter byte, hour and
minute are placed (log entry 7). -/
def presentRow (i : Instr) (s : State) : State :=
  match i with
  | .frameCeOpen n => present 0x5001#16 (portsFor n 0#64 0x00#8 0x00#8) (writeCfg 0 0x00#8 s)
  | .frameCeClose n => present 0x5002#16 (portsFor n 0#64 0x00#8 0x00#8) (writeCfg 0 0x00#8 s)
  | .frameCwsOpen n m g v =>
    present 0x5001#16 (portsFor n (BitVec.ofNat 64 (30 * v.toNat)) 0x00#8 0x00#8)
      { s with cfg := ⟨0x01#8, m.b0, m.b1, m.b2, m.b3, g.b0, g.b1⟩ }
  | .frameCwsClose n m g v =>
    present 0x5002#16 (portsFor n (BitVec.ofNat 64 (30 * v.toNat)) 0x00#8 0x00#8)
      { s with cfg := ⟨0x01#8, m.b0, m.b1, m.b2, m.b3, g.b0, g.b1⟩ }
  | .frameRsiOpen c _ hh mm => present 0x5001#16 ⟨c.setWidth 64, 0#64, hh, mm⟩ (writeCfg 0 0x02#8 s)
  | .frameRsiClose c _ hh mm => present 0x5002#16 ⟨c.setWidth 64, 0#64, hh, mm⟩ (writeCfg 0 0x02#8 s)
  | .frameToOpen n hh mm => present 0x5001#16 (portsFor n 0#64 hh mm) (writeCfg 0 0x03#8 s)
  | .frameToClose n hh mm => present 0x5002#16 (portsFor n 0#64 hh mm) (writeCfg 0 0x03#8 s)
  | .nop => present 0x0000#16 s.ports s
  | .crcClr => present 0x1000#16 s.ports s
  | .crcUpd d => present (commandWord 0x2#4 0x0#4 d) s.ports s
  | .crcCmp d => present (commandWord 0x3#4 0x0#4 d) s.ports s
  | .cfgWrCtrl d => present (commandWord 0x4#4 0x0#4 d) s.ports s
  | .cfgWrMarker0 d => present (commandWord 0x4#4 0x1#4 d) s.ports s
  | .cfgWrMarker1 d => present (commandWord 0x4#4 0x2#4 d) s.ports s
  | .cfgWrMarker2 d => present (commandWord 0x4#4 0x3#4 d) s.ports s
  | .cfgWrMarker3 d => present (commandWord 0x4#4 0x4#4 d) s.ports s
  | .cfgWrSig0 d => present (commandWord 0x4#4 0x5#4 d) s.ports s
  | .cfgWrSig1 d => present (commandWord 0x4#4 0x6#4 d) s.ports s
  | .build op => present (commandWord 0x5#4 0x0#4 op) s.ports s
  | .release => present 0x6000#16 s.ports s

/-- The row of `nbits` bits whose bits are `w`, placed for the very next step: a word of at most 16 bits goes on the
command port as it is, legal or not; a frame, its bytes read from `w` as decodeTableWord reads them (DESIGN CHOICE, log
entry 12), is placed as the BUILD that produces it (log entry 7); bits of no row leave a reserved word. -/
def presentTableWord (nbits w : Nat) (s : State) : State :=
  if nbits ≤ 16 then present (BitVec.ofNat 16 w) s.ports s
  else
    match decodeTableWord nbits w with
    | some i => presentRow i s
    | none => present 0xFFFF#16 s.ports s

end Sys2Proof.Machine
end

