-- ==== Sys2Proof/Machine/Step.lean ====
section
/-! DEFINITION. One step: the host's next entry is taken from the stream; a legal word is executed, a reserved word is
refused with its reason (30_encoding.md R82, R88), reset gives the reset state (70_reset_and_hazards.md R220). -/

namespace Sys2Proof.Machine

/-- A command word executed at a state whose ports carry its operands. -/
def runWord (cw : BitVec 16) (s : State) : Host.Outcome State Fault Refusal :=
  match decodeCommand cw with
  | .ok i => exec i s
  | .error why => .refused (.reservedWord why)

/-- One step of the core (R5, R6). -/
def step (s : State) : Host.Outcome State Fault Refusal :=
  match fetch s with
  | .idle => .next s
  | .reset s' => .next s'
  | .command cw s' => runWord cw s'

/-- The host's placement of one row's bits where step takes its next command. -/
def State.withFetchWord (s : State) (nbits w : Nat) : State := presentTableWord nbits w s

end Sys2Proof.Machine
end

