-- ==== Sys2Proof/Machine/HostSide.lean ====
section
/-! DEFINITION. The host's side of the interface: reads of the registers, which have no side effect and so are functions of
the state (20_memory.md R57, 60_exceptions.md R210), and the four macros of 30_encoding.md R84 to R87 as the command
streams they expand to. -/

namespace Sys2Proof.Machine

/-- The host's read of `ACC`. -/
def hostAcc (s : State) : Byte := s.acc

/-- The host's read of `STATUS`. -/
def hostStatus (s : State) : Byte := s.status

/-- The host's read of `CFG[i]`; none above idx 6 (R51). -/
def hostCfg (i : Nat) (s : State) : Option Byte := s.cfg.read i

/-- The host's read of `FRAME[i]`; an offset above 32 names nothing (R51). -/
def hostFrame (i : Nat) (s : State) : Except Fault Byte :=
  if i < frameLen then .ok (s.frame.peek i) else .error (.noSuchFrameOffset i)

/-- The hand-over to the transport (R55, R210): 33 bytes, `FRAME[0]` first, while `FRAME_VALID = 1`. It changes nothing. -/
def handOver (s : State) : Option (List Byte) :=
  if statusFrameValid s.status then some (frameBytes s.frame) else none

/-- One command of a stream, with the port levels held at `p`. -/
def issue (p : Ports) (cmd idx : BitVec 4) (d : Byte) : Input := .command (commandWord cmd idx d) p

/-- The stream `CRC_UPD s[0], ..., CRC_UPD s[N-1]`. -/
def updStream (p : Ports) (bytes : List Byte) : List Input := bytes.map (issue p 0x2#4 0x0#4)

/-- CHECKSUM s (R84): the result is then read from `ACC`. -/
def checksumStream (p : Ports) (bytes : List Byte) : List Input :=
  issue p 0x1#4 0x0#4 0x00#8 :: updStream p bytes

/-- VERIFY of `bytes` followed by `last` (R85): the result is then read from `STATUS`. The empty sequence cannot be written. -/
def verifyStream (p : Ports) (bytes : List Byte) (last : Byte) : List Input :=
  checksumStream p bytes ++ [issue p 0x3#4 0x0#4 last]

/-- The `CTRL` byte `(bsel << 2) | kind` (R86). -/
def ctrlByte (kind : StrategyKind) (bsel : Bool) : Byte :=
  (if bsel then 0x04#8 else 0x00#8) ||| (codeOfKind kind).setWidth 8

/-- CONFIG (R86): `MARKER`, `SIG`, then `CTRL` last. -/
def configStream (p : Ports) (kind : StrategyKind) (bsel : Bool) (m : Bytes4) (g : Bytes2) : List Input :=
  [issue p 0x4#4 0x1#4 m.b0, issue p 0x4#4 0x2#4 m.b1, issue p 0x4#4 0x3#4 m.b2, issue p 0x4#4 0x4#4 m.b3,
   issue p 0x4#4 0x5#4 g.b0, issue p 0x4#4 0x6#4 g.b1, issue p 0x4#4 0x0#4 (ctrlByte kind bsel)]

/-- The first part of SEND op (R87): the BUILD, with the port levels it samples. -/
def sendBuild (p : Ports) (op : Byte) : List Input := [issue p 0x5#4 0x0#4 op]

/-- The second part of SEND (R87), decided by the host from what it reads after the BUILD: with `ERR = 0` the 33 bytes go to
the transport and RELEASE follows; otherwise nothing is handed over. -/
def sendRest (p : Ports) (s : State) : Option (List Byte) × List Input :=
  if statusErr s.status = 0#2 then (some (frameBytes s.frame), [issue p 0x6#4 0x0#4 0x00#8]) else (none, [])

end Sys2Proof.Machine
end

