-- ==== Sys2Proof/Safety.lean ====
section
/-! DEFINITION. The terms in which safety of the core is stated: what a produced frame satisfies (30_encoding.md R72), the
invariant of every reachable state (10_state.md R23, R25 to R27), legal streams (60_exceptions.md R198) and runs of steps. -/

namespace Sys2Proof.Machine

/-- The frame invariants of R72 (its items 1 to 6; item 7 follows from item 2 by R110), on 33 bytes. -/
structure FrameOk (f : List Byte) : Prop where
  /-- Item 1. -/
  length   : f.length = 33
  /-- Item 2. -/
  checksum : byteAt f 32 = crc8 (f.take 32)
  /-- Item 3. -/
  echo     : ∀ k, k < 4 → byteAt f (4 + k) = byteAt f k
  /-- Item 4. -/
  zero     : ∀ k ∈ reservedOffsets, byteAt f k = 0x00#8
  /-- Item 5. -/
  opcode   : byteAt f 24 = 0x01#8 ∨ byteAt f 24 = 0x02#8
  /-- Item 6. -/
  mirrored : byteAt f 18 = byteAt f 16 ∧ byteAt f 19 = byteAt f 17

/-- What holds in every reachable state. -/
structure CoreInv (s : State) : Prop where
  /-- The FRAME space is in canonical form. -/
  frameWf    : s.frame.wf = true
  /-- `CFG[0][7:3]` is zero (R23). -/
  ctrl       : ctrlLegal s.cfg.ctrl = true
  /-- `FRAME_VALID = 0` only with 33 zero bytes (R27). -/
  released   : statusFrameValid s.status = false → frameBytes s.frame = zeros 33
  /-- `FRAME_VALID = 1` only with a frame that has every frame invariant (R27). -/
  held       : statusFrameValid s.status = true → FrameOk (frameBytes s.frame)
  /-- `ERR_FIELD` is `NONCE` exactly with `ERR = 2`, and `NONE` otherwise (R25, R26). -/
  errField   : statusErrField s.status = if statusErr s.status = 2#2 then 1#4 else 0#4
  /-- `ERR = 3` only while the last CRC_CMP's answer is false (R191). -/
  mismatch   : statusErr s.status = 3#2 → statusMatch s.status = false

/-- A command word that is legal (R82). -/
def LegalWord (cw : BitVec 16) : Prop := ∃ i, decodeCommand cw = .ok i

/-- A host that issues no reserved word (R238): every command of the stream is legal. -/
def LegalStream (l : List Input) : Prop := ∀ cw p, Input.command cw p ∈ l → LegalWord cw

/-- Byte `k` of an unsigned integer, counted from the least significant: `v[8k+7:8k]` (R10). -/
def natByte (v k : Nat) : Byte := BitVec.ofNat 8 (v / 256 ^ k)

/-- One shift iteration of R100 on unsigned integers. -/
def shiftNat (r : Nat) : Nat := if r % 2 = 1 then (r / 2) ^^^ 0x8C else r / 2

/-- What one entry of the host's stream does to `ACC` (R20, R107, R230): CRC_CLR and reset clear it, CRC_UPD absorbs a
byte, everything else leaves it. -/
def accAfter (a : Byte) (x : Input) : Byte :=
  match x with
  | .reset => 0x00#8
  | .command cw _ =>
    if cw = 0x1000#16 then 0x00#8
    else if cw.extractLsb' 8 8 = 0x20#8 then crc8Step a (cw.extractLsb' 0 8)
    else a

/-- `t` is `s` after a BUILD that produced the frame of `body` (R130, R137): FRAME and three fields of STATUS written,
everything else as before. -/
structure BuiltFrom (body : List Byte) (s t : State) : Prop where
  frame    : frameBytes t.frame = body ++ [crc8 body]
  valid    : statusFrameValid t.status = true
  err      : statusErr t.status = 0#2
  errField : statusErrField t.status = 0#4
  matchBit : statusMatch t.status = statusMatch s.status
  acc      : t.acc = s.acc
  cfg      : t.cfg = s.cfg
  ports    : t.ports = s.ports
  pending  : t.pending = s.pending

/-- `t` is `s` after a BUILD that completed with an error (R139, R140): reported in `ERR` and `ERR_FIELD`, no frame held,
everything else as before. -/
structure BuildFailed (err : BitVec 2) (field : BitVec 4) (s t : State) : Prop where
  frame    : frameBytes t.frame = zeros 33
  valid    : statusFrameValid t.status = false
  err      : statusErr t.status = err
  errField : statusErrField t.status = field
  matchBit : statusMatch t.status = statusMatch s.status
  acc      : t.acc = s.acc
  cfg      : t.cfg = s.cfg
  ports    : t.ports = s.ports
  pending  : t.pending = s.pending

/-- Instruction `i` completes at `s` by writing `d` to `CFG[k]` and nothing else (R172). -/
def WritesCfg (k : Nat) (d : Byte) (i : Instr) (s : State) : Prop :=
  ∃ t, exec i s = .next t ∧ (∀ j, hostCfg j t = if j = k then some d else hostCfg j s) ∧
    t.acc = s.acc ∧ t.frame = s.frame ∧ t.status = s.status ∧ t.ports = s.ports ∧ t.pending = s.pending

/-- Frame row `i` completes at `s`: FRAME becomes the row's 33 bytes, reported as a success. -/
def CompletesAsRow (i : Instr) (op : Byte) (s : State) : Prop :=
  ∃ t body, exec i s = .next t ∧ exec (.build op) s = .next t ∧ encode i = .frame (body ++ [crc8 body]) ∧
    body.length = 32 ∧ BuiltFrom body s t

/-- Whether an instruction is a BUILD, by its command or by one of its frame rows. -/
def IsBuild (i : Instr) : Prop := (∃ op, i = .build op) ∨ i.frameKind ≠ none

/-- Whether an instruction is one of the seven forms of CFG_WR. -/
def IsCfgWr (i : Instr) : Prop :=
  ∃ d, i = .cfgWrCtrl d ∨ i = .cfgWrMarker0 d ∨ i = .cfgWrMarker1 d ∨ i = .cfgWrMarker2 d ∨ i = .cfgWrMarker3 d ∨
    i = .cfgWrSig0 d ∨ i = .cfgWrSig1 d

/-- `k` steps, stopping at the first fault or refusal: Host.Core.run of this machine, in its own types. -/
def steps : Nat → State → Result
  | 0, s => .next s
  | k + 1, s => andThen (step s) (steps k)

/-- The host's stream placed before whatever else is pending. -/
def State.given (s : State) (l : List Input) : State := { s with pending := l ++ s.pending }

end Sys2Proof.Machine
end

