-- ==== Sys2Proof/Certificates/Slice0/Obligations.lean ====
section
/-! DEFINITION. The statements for the provers. Each docstring names the rule of spec/ it formalises, and says where it
speaks of a choice of the model. -/

open Sys2Proof Sys2Proof.Machine

/-! ## Reset and the step -/

/-- R34: the value of every register right after reset. -/
def Obligations.ResetLeavesEveryRegisterZero : Prop :=
  State.reset.acc = 0x00#8 ∧
  (∀ i, i ≤ 32 → hostFrame i State.reset = .ok 0x00#8) ∧
  (∀ i, i ≤ 6 → hostCfg i State.reset = some 0x00#8) ∧
  State.reset.cfg.kind = .counterEcho ∧ State.reset.cfg.bucketWidth = 30 ∧
  State.reset.cfg.marker = ⟨0x00#8, 0x00#8, 0x00#8, 0x00#8⟩ ∧ State.reset.cfg.sig = ⟨0x00#8, 0x00#8⟩ ∧
  State.reset.status = 0x00#8 ∧ statusErr State.reset.status = errCode .ok ∧
  statusMatch State.reset.status = false ∧ statusFrameValid State.reset.status = false ∧
  statusErrField State.reset.status = errFieldCode .none

/-- R220, R222: reset between two steps gives the reset registers whatever the state before; a held frame and a partial
checksum do not survive it. That the rest of the host's stream is kept is the model's (log entry 2). -/
def Obligations.ResetEventRestoresEveryRegister : Prop :=
  ∀ (s : State) (rest : List Input), s.pending = .reset :: rest →
    ∃ t, step s = .next t ∧ t.acc = 0x00#8 ∧ frameBytes t.frame = zeros 33 ∧
      (∀ i, i ≤ 6 → hostCfg i t = some 0x00#8) ∧ t.status = 0x00#8 ∧ t.pending = rest

/-- The step takes the head of the host's stream, drives its port levels and runs the decoded instruction (R6, R28). The
stream is the model's own field (log entry 1). -/
def Obligations.StepRunsTheDecodedInstruction : Prop :=
  ∀ (s : State) (cw : BitVec 16) (p : Ports) (rest : List Input) (i : Instr),
    s.pending = .command cw p :: rest → i.WellFormed → decodeCommand cw = .ok i →
      step s = exec i { s with ports := p, pending := rest }

/-- R221: "After reset the core does nothing until the first command arrives". With no command present a step changes
nothing (log entry 2). -/
def Obligations.StepWithoutCommandChangesNothing : Prop :=
  ∀ s : State, s.pending = [] → step s = .next s

/-- R88: every word of the rule's table is refused, whatever the state and the ports. -/
def Obligations.EveryReservedWordIsRefused : Prop :=
  ∀ (s : State) (cw : BitVec 16) (p : Ports) (rest : List Input) (cmd idx d : Nat),
    s.pending = .command cw p :: rest →
    cw.toNat = 4096 * cmd + 256 * idx + d → cmd < 16 → idx < 16 → d < 256 →
    (7 ≤ cmd ∨ ((cmd = 0 ∨ cmd = 1 ∨ cmd = 6) ∧ (idx ≠ 0 ∨ d ≠ 0)) ∨
      ((cmd = 2 ∨ cmd = 3 ∨ cmd = 5) ∧ idx ≠ 0) ∨ (cmd = 4 ∧ 7 ≤ idx) ∨ (cmd = 4 ∧ idx = 0 ∧ d / 8 ≠ 0)) →
    ∃ why, step s = .refused (.reservedWord why)

/-- R82: a word is legal exactly when it has the pattern of a row of R80 and R81, the patterns are pairwise disjoint, and
the instruction is that row's. -/
def Obligations.WordIsLegalExactlyWhenOneRowMatches : Prop :=
  (commandRows.Pairwise fun r r' => ∀ cw, ¬ (r.accepts cw = true ∧ r'.accepts cw = true)) ∧
  (∀ cw i, decodeCommand cw = .ok i → ∃ r ∈ commandRows, r.accepts cw = true ∧ r.mnemonic = i.mnemonic) ∧
  (∀ cw, ∀ r ∈ commandRows, r.accepts cw = true → ∃ i, decodeCommand cw = .ok i ∧ i.mnemonic = r.mnemonic)

/-- R82: "Count of legal words: 1 + 1 + 256 + 256 + (8 + 6 × 256) + 256 + 1 = 2315 of 65536." -/
def Obligations.LegalWordsNumber2315 : Prop :=
  ((List.range 65536).filter fun w => (decodeTableWord 16 w).isSome).length = 2315

/-- R198: every legal command completes in one step from every state and with every value of the operand ports, and so
does every legal stream. That the commands stand in the state as a stream, and that a reset in it keeps the rest pending, is
the model's (log entries 1 and 2). -/
def Obligations.EveryLegalCommandCompletes : Prop :=
  (∀ (s : State) (cw : BitVec 16) (p : Ports) (rest : List Input),
    s.pending = .command cw p :: rest → LegalWord cw → ∃ t, step s = .next t ∧ t.pending = rest) ∧
  (∀ (l : List Input) (s : State), LegalStream l →
    ∃ t, steps l.length (s.given l) = .next t ∧ t.pending = s.pending)

/-- R51, R91, R198: no step and no instruction reaches the fault of an offset that does not exist, in any state. -/
def Obligations.NothingFaults : Prop :=
  (∀ (s : State) (f : Fault), step s ≠ .fault f) ∧ (∀ (i : Instr) (s : State) (f : Fault), exec i s ≠ .fault f)

/-! ## Encoding -/

/-- Decode and encode agree on every well-formed instruction of both formats, every operand at every value (R71, R78 to
R82). A frame is decoded with its strategy given, since it does not carry it (R76). -/
def Obligations.DecodeInvertsEncode : Prop :=
  ∀ (i : Instr) (kind : StrategyKind), i.WellFormed → (i.frameKind = none ∨ i.frameKind = some kind) →
    decode kind (encode i) = .ok i

/-- The other direction: what decodes is the encoding of a well-formed instruction of the asked strategy, so no bit of a
word or of a frame is dropped (R72, R79, R82). -/
def Obligations.EncodeInvertsDecode : Prop :=
  ∀ (e : Encoded) (kind : StrategyKind) (i : Instr), decode kind e = .ok i →
    i.WellFormed ∧ encode i = e ∧ ((∃ cw, e = .command cw ∧ i.frameKind = none) ∨
      (∃ b, e = .frame b ∧ i.frameKind = some kind))

/-- R80, R81 and the S3 example: words written out from the spec's encoding decode to the instructions they stand for. -/
def Obligations.WrittenWordsDecode : Prop :=
  decodeCommand 0x0000#16 = .ok .nop ∧ decodeCommand 0x1000#16 = .ok .crcClr ∧
  decodeCommand 0x2031#16 = .ok (.crcUpd 0x31#8) ∧ decodeCommand 0x30A7#16 = .ok (.crcCmp 0xA7#8) ∧
  decodeCommand 0x4005#16 = .ok (.cfgWrCtrl 0x05#8) ∧ decodeCommand 0x4168#16 = .ok (.cfgWrMarker0 0x68#8) ∧
  decodeCommand 0x4668#16 = .ok (.cfgWrSig1 0x68#8) ∧ decodeCommand 0x50FF#16 = .ok (.build 0xFF#8) ∧
  decodeCommand 0x6000#16 = .ok .release ∧ decodeCommand 0x4008#16 = .error .ctrlReservedBits ∧
  decodeFrame .tickOnly (zeros 16 ++ [0x0E#8, 0x07#8, 0x0E#8, 0x07#8] ++ zeros 4 ++ [0x01#8] ++ zeros 7 ++ [0x20#8])
    = .ok (.frameToOpen 0#32 0x0E#8 0x07#8)

/-- R76: a kind 0 frame is also a possible kind 3 frame (hour 0, minute 0), a possible kind 1 frame (marker, signature and
bucket value all zero) and a possible kind 2 frame. -/
def Obligations.CounterEchoFrameIsAFrameOfEveryKind : Prop :=
  ∀ n : BitVec 32,
    (encode (.frameCeOpen n) = encode (.frameToOpen n 0x00#8 0x00#8) ∧
     encode (.frameCeOpen n) = encode (.frameCwsOpen n ⟨0x00#8, 0x00#8, 0x00#8, 0x00#8⟩ ⟨0x00#8, 0x00#8⟩ 0#16) ∧
     ∃ c t, encode (.frameCeOpen n) = encode (.frameRsiOpen c t 0x00#8 0x00#8)) ∧
    (encode (.frameCeClose n) = encode (.frameToClose n 0x00#8 0x00#8) ∧
     encode (.frameCeClose n) = encode (.frameCwsClose n ⟨0x00#8, 0x00#8, 0x00#8, 0x00#8⟩ ⟨0x00#8, 0x00#8⟩ 0#16) ∧
     ∃ c t, encode (.frameCeClose n) = encode (.frameRsiClose c t 0x00#8 0x00#8))

/-! ## The checksum engine -/

/-- R104: CRC_CLR writes 0x00 to `ACC` and nothing else. -/
def Obligations.CrcClearZeroesTheAccumulator : Prop :=
  ∀ s : State, exec .crcClr s = .next { s with acc := 0x00#8 }

/-- R100, R105: CRC_UPD xors the byte into `ACC` and shifts eight times, the low bit deciding the xor with 0x8C; it writes
nothing else. The new value is stated on unsigned integers, not by the model's own function. -/
def Obligations.CrcUpdateShiftsEightTimes : Prop :=
  ∀ (d : Byte) (s : State), ∃ t, exec (.crcUpd d) s = .next t ∧ t = { s with acc := t.acc } ∧
    t.acc.toNat = shiftNat^[8] (s.acc.toNat ^^^ d.toNat)

/-- R103(a): the combinational form of one update. -/
def Obligations.CrcUpdateIsTheCombinationalForm : Prop :=
  ∀ (d : Byte) (s : State), ∃ t, exec (.crcUpd d) s = .next t ∧
    ∀ x : Byte, x = s.acc ^^^ d →
      t.acc.getLsbD 0 = (x.getLsbD 2 ^^ x.getLsbD 4 ^^ x.getLsbD 5) ∧
      t.acc.getLsbD 1 = (x.getLsbD 0 ^^ x.getLsbD 3 ^^ x.getLsbD 5 ^^ x.getLsbD 6) ∧
      t.acc.getLsbD 2 = (x.getLsbD 0 ^^ x.getLsbD 1 ^^ x.getLsbD 4 ^^ x.getLsbD 6 ^^ x.getLsbD 7) ∧
      t.acc.getLsbD 3 = (x.getLsbD 0 ^^ x.getLsbD 1 ^^ x.getLsbD 4 ^^ x.getLsbD 7) ∧
      t.acc.getLsbD 4 = (x.getLsbD 0 ^^ x.getLsbD 1 ^^ x.getLsbD 4) ∧
      t.acc.getLsbD 5 = (x.getLsbD 1 ^^ x.getLsbD 2 ^^ x.getLsbD 5) ∧
      t.acc.getLsbD 6 = (x.getLsbD 0 ^^ x.getLsbD 2 ^^ x.getLsbD 3 ^^ x.getLsbD 6) ∧
      t.acc.getLsbD 7 = (x.getLsbD 1 ^^ x.getLsbD 3 ^^ x.getLsbD 4 ^^ x.getLsbD 7)

/-- R106: CRC_CMP reports whether the byte equals `ACC` in `MATCH`, `ERR` and `ERR_FIELD`, and writes nothing else. -/
def Obligations.CrcCompareReportsTheMatch : Prop :=
  ∀ (d : Byte) (s : State), ∃ t, exec (.crcCmp d) s = .next t ∧
    (s.acc = d → statusMatch t.status = true ∧ statusErr t.status = 0#2) ∧
    (s.acc ≠ d → statusMatch t.status = false ∧ statusErr t.status = 3#2) ∧
    statusErrField t.status = 0#4 ∧ statusFrameValid t.status = statusFrameValid s.status ∧
    t = { s with status := t.status }

/-- R107: the macro CHECKSUM, from any state and before any further stream, leaves `ACC = crc8(s)`. The stream is the
model's form of the host's commands (log entry 1). -/
def Obligations.ChecksumMacroLeavesTheChecksum : Prop :=
  ∀ (s : State) (p : Ports) (bytes : List Byte),
    ∃ t, steps (bytes.length + 1) (s.given (checksumStream p bytes)) = .next t ∧ t.acc = crc8 bytes ∧
      t.frame = s.frame ∧ t.cfg = s.cfg ∧ t.status = s.status ∧ t.pending = s.pending

/-- R107, R131, R230: over any stream `ACC` is the fold of every CRC_UPD since the last CRC_CLR or reset, whoever issued
them; BUILD, CFG_WR, CRC_CMP, RELEASE and NOP in between are harmless. The stream, and reset as an entry of it, are the
model's (log entries 1 and 2). -/
def Obligations.AccumulatorIsTheFoldOfTheStream : Prop :=
  ∀ (l : List Input) (s t : State), steps l.length (s.given l) = .next t → t.acc = l.foldl accAfter s.acc

/-- R108: the macro VERIFY answers whether the last byte is the checksum of the bytes before it. The stream is the model's
form of the host's commands (log entry 1). -/
def Obligations.VerifyMacroAnswersTheComparison : Prop :=
  ∀ (s : State) (p : Ports) (bytes : List Byte) (last : Byte),
    ∃ t, steps (bytes.length + 2) (s.given (verifyStream p bytes last)) = .next t ∧
      (statusMatch t.status = true ↔ crc8 bytes = last) ∧
      statusErr t.status = (if statusMatch t.status then 0#2 else 3#2) ∧
      t.frame = s.frame ∧ t.cfg = s.cfg ∧ t.pending = s.pending

/-- R108 ("For any frame the core built, VERIFY of its 33 bytes gives `MATCH = 1`"): the frame of any successful BUILD
verifies, from any state of a core. The stream is the model's form of the host's commands (log entry 1). -/
def Obligations.EveryBuiltFrameVerifies : Prop :=
  ∀ (op : Byte) (s t u : State) (p : Ports), exec (.build op) s = .next t → statusFrameValid t.status = true →
    ∃ v, steps 34 (u.given (verifyStream p ((frameBytes t.frame).take 32) (byteAt (frameBytes t.frame) 32))) = .next v ∧
      statusMatch v.status = true ∧ statusErr v.status = 0#2

/-- R110: the residue. -/
def Obligations.ResidueIsZeroExactlyForTheChecksum : Prop :=
  (∀ a d : Byte, crc8Step a d = 0x00#8 ↔ d = a) ∧
  (∀ s : List Byte, crc8 (s ++ [crc8 s]) = 0x00#8) ∧
  (∀ (s : List Byte) (d : Byte), crc8 s = d ↔ crc8 (s ++ [d]) = 0x00#8)

/-- R111: linearity, and what it says of a corruption of a valid sequence. -/
def Obligations.ChecksumIsLinear : Prop :=
  (∀ s t : List Byte, s.length = t.length → crc8 (List.zipWith (· ^^^ ·) s t) = crc8 s ^^^ crc8 t) ∧
  (∀ s e : List Byte, s.length = e.length → crc8 s = 0x00#8 →
    (crc8 (List.zipWith (· ^^^ ·) s e) = 0x00#8 ↔ crc8 e = 0x00#8))

/-- R112: leading zeros. -/
def Obligations.LeadingZerosAreInvisible : Prop :=
  (∀ (k : Nat) (s : List Byte), crc8 (zeros k ++ s) = crc8 s) ∧ (∀ k : Nat, crc8 (zeros k) = 0x00#8)

/-- R113: "every change confined to one byte is detected (33 × 255)", the checksum byte included. -/
def Obligations.OneByteChangeFailsVerification : Prop :=
  ∀ (f : List Byte) (k : Nat) (b : Byte), f.length = 33 → crc8 (f.take 32) = byteAt f 32 → k < 33 → b ≠ byteAt f k →
    crc8 ((f.set k b).take 32) ≠ byteAt (f.set k b) 32

/-- R113: "every change of an odd number of bits is detected". Bits counted over the whole change. -/
def Obligations.OddBitChangeIsDetected : Prop :=
  ∀ e : List Byte, (e.map fun b => ((List.range 8).filter fun j => b.getLsbD j).length).sum % 2 = 1 → crc8 e ≠ 0x00#8

/-- R113: "every burst of length 2 to 8 bits is detected", and of the 9-bit bursts exactly those equal to the shifted full
polynomial (stream bits 0, 3, 4, 8) are not. Bit `j` of the number is stream position `j`. -/
def Obligations.ShortBurstIsDetected : Prop :=
  (∀ b j : Nat, 0 < b → b < 256 → b * 2 ^ j < 2 ^ 264 → crc8 (frameOfNat (b * 2 ^ j)) ≠ 0x00#8) ∧
  (∀ b j : Nat, 256 ≤ b → b < 512 → b % 2 = 1 → j ≤ 255 → (crc8 (frameOfNat (b * 2 ^ j)) = 0x00#8 ↔ b = 0x119))

/-- R113: "two-bit changes go undetected exactly when the two bits are 127 or 254 stream positions apart". -/
def Obligations.TwoBitChangeIsMissedOnlyAt127Or254 : Prop :=
  ∀ i j : Nat, i < j → j < 264 → (crc8 (frameOfNat (2 ^ i + 2 ^ j)) = 0x00#8 ↔ j - i = 127 ∨ j - i = 254)

/-! ## The anti-replay encoder -/

/-- R172: each form of CFG_WR writes its byte of CFG, the byte every host read then sees, and nothing else. -/
def Obligations.ConfigWriteStoresItsByte : Prop :=
  ∀ (d : Byte) (s : State),
    (d.toNat ≤ 7 → WritesCfg 0 d (.cfgWrCtrl d) s) ∧ WritesCfg 1 d (.cfgWrMarker0 d) s ∧
    WritesCfg 2 d (.cfgWrMarker1 d) s ∧ WritesCfg 3 d (.cfgWrMarker2 d) s ∧ WritesCfg 4 d (.cfgWrMarker3 d) s ∧
    WritesCfg 5 d (.cfgWrSig0 d) s ∧ WritesCfg 6 d (.cfgWrSig1 d) s

/-- R23, R81, R88: the CTRL byte selects the strategy by its bits [1:0] and the bucket width by its bit 2; a byte above 0x07
is encoded by no legal word. That the term with such a byte is refused by its meaning too is the model's (log entry 9). -/
def Obligations.ControlByteSelectsKindAndWidth : Prop :=
  ∀ (d : Byte) (s : State),
    (d.toNat ≤ 7 → ∃ t, exec (.cfgWrCtrl d) s = .next t ∧
      (d.toNat % 4 = 0 → t.cfg.kind = .counterEcho) ∧ (d.toNat % 4 = 1 → t.cfg.kind = .counterWithSignature) ∧
      (d.toNat % 4 = 2 → t.cfg.kind = .rollingSessionId) ∧ (d.toNat % 4 = 3 → t.cfg.kind = .tickOnly) ∧
      t.cfg.bucketWidth = (if 4 ≤ d.toNat then 60 else 30)) ∧
    (7 < d.toNat → exec (.cfgWrCtrl d) s = .refused (.reservedWord .ctrlReservedBits))

/-- R163, R12: `dec(n)` is the decimal numeral of `n`: digits 0x30 to 0x39, their value is `n`, and no leading zero except
in the one-digit numeral of 0. -/
def Obligations.DecIsTheDecimalNumeral : Prop :=
  (∀ n : Nat, ∀ b ∈ dec n, 0x30 ≤ b.toNat ∧ b.toNat ≤ 0x39) ∧
  (∀ n : Nat, (dec n).foldl (fun v b => 10 * v + (b.toNat - 0x30)) 0 = n) ∧
  (∀ n : Nat, n ≠ 0 → (dec n).head? ≠ some 0x30#8) ∧ dec 0 = [0x30#8]

/-- R163: two BUILDs whose `UNIX_TIME` fall in the same 300-second bucket, with equal other operands, give identical frames
under RollingSessionId, whatever DIGEST is. -/
def Obligations.SameBucketGivesTheSameSessionFrame : Prop :=
  ∀ (op : Byte) (s : State) (t1 t2 : BitVec 64), s.cfg.kind = .rollingSessionId → t1.toNat / 300 = t2.toNat / 300 →
    ∃ u1 u2, exec (.build op) { s with ports := { s.ports with unixTime := t1 } } = .next u1 ∧
      exec (.build op) { s with ports := { s.ports with unixTime := t2 } } = .next u2 ∧
      u1.frame = u2.frame ∧ u1.status = u2.status

/-! ## The frame builder -/

/-- R139: BUILD with any opcode but 0x01 and 0x02, whatever the strategy and the ports. -/
def Obligations.BuildRejectsOtherOpcodes : Prop :=
  ∀ (op : Byte) (s : State), op ≠ 0x01#8 → op ≠ 0x02#8 →
    ∃ t, exec (.build op) s = .next t ∧ BuildFailed 1#2 0#4 s t

/-- R140: BUILD with a legal opcode and a counter above 0xFFFFFFFF under the three 32-bit strategies; a counter of at most
0xFFFFFFFF, and any counter under RollingSessionId, succeeds. -/
def Obligations.BuildRejectsWideCounters : Prop :=
  ∀ (op : Byte) (s : State), (op = 0x01#8 ∨ op = 0x02#8) →
    (s.cfg.kind ≠ .rollingSessionId → 0xFFFFFFFF < s.ports.ctr.toNat →
      ∃ t, exec (.build op) s = .next t ∧ BuildFailed 2#2 1#4 s t) ∧
    (s.cfg.kind = .rollingSessionId ∨ s.ports.ctr.toNat ≤ 0xFFFFFFFF →
      ∃ t, exec (.build op) s = .next t ∧ statusErr t.status = 0#2 ∧ statusErrField t.status = 0#4 ∧
        statusFrameValid t.status = true)

/-- R132: BUILD under CounterEcho. -/
def Obligations.BuildCounterEchoFrame : Prop :=
  ∀ (op : Byte) (s : State) (c : Nat), (op = 0x01#8 ∨ op = 0x02#8) → s.cfg.kind = .counterEcho →
    c = s.ports.ctr.toNat → c ≤ 0xFFFFFFFF →
    ∃ t, exec (.build op) s = .next t ∧ BuiltFrom
      ([natByte c 0, natByte c 1, natByte c 2, natByte c 3, natByte c 0, natByte c 1, natByte c 2, natByte c 3]
        ++ zeros 16 ++ [op] ++ zeros 7) s t

/-- R133: BUILD under CounterWithSignature, with the bucket width of `BSEL`. -/
def Obligations.BuildCounterWithSignatureFrame : Prop :=
  ∀ (op : Byte) (s : State) (c v m0 m1 m2 m3 g0 g1 : Nat), (op = 0x01#8 ∨ op = 0x02#8) →
    s.cfg.kind = .counterWithSignature → c = s.ports.ctr.toNat → c ≤ 0xFFFFFFFF →
    v = (if s.cfg.ctrl.getLsbD 2 then s.ports.unixTime.toNat / 60 else s.ports.unixTime.toNat / 30) % 65536 →
    hostCfg 1 s = some (natByte m0 0) → hostCfg 2 s = some (natByte m1 0) → hostCfg 3 s = some (natByte m2 0) →
    hostCfg 4 s = some (natByte m3 0) → hostCfg 5 s = some (natByte g0 0) → hostCfg 6 s = some (natByte g1 0) →
    ∃ t, exec (.build op) s = .next t ∧ BuiltFrom
      ([natByte c 0, natByte c 1, natByte c 2, natByte c 3, natByte c 0, natByte c 1, natByte c 2, natByte c 3,
        natByte m0 0, natByte m1 0, natByte m2 0, natByte m3 0, natByte g0 0, natByte g1 0, 0x00#8, 0x00#8,
        natByte v 1, natByte v 0, natByte v 1, natByte v 0] ++ zeros 4 ++ [op] ++ zeros 7) s t

/-- R134: BUILD under RollingSessionId, for every counter and every DIGEST. -/
def Obligations.BuildRollingSessionIdFrame : Prop :=
  ∀ (op : Byte) (s : State) (c : Nat) (d : DigestOutput), (op = 0x01#8 ∨ op = 0x02#8) →
    s.cfg.kind = .rollingSessionId → c = s.ports.ctr.toNat % 256 →
    Config.digest (dec (s.ports.unixTime.toNat / 300)) = d →
    ∃ t, exec (.build op) s = .next t ∧ BuiltFrom
      ([natByte c 0, d.b0, d.b1, d.b2, natByte c 0, d.b0, d.b1, d.b2] ++ zeros 8
        ++ [s.ports.utcHour, s.ports.utcMin, s.ports.utcHour, s.ports.utcMin] ++ zeros 4 ++ [op] ++ zeros 7) s t

/-- R135: BUILD under TickOnly; hour and minute are packed as the ports carry them. -/
def Obligations.BuildTickOnlyFrame : Prop :=
  ∀ (op : Byte) (s : State) (c : Nat), (op = 0x01#8 ∨ op = 0x02#8) → s.cfg.kind = .tickOnly →
    c = s.ports.ctr.toNat → c ≤ 0xFFFFFFFF →
    ∃ t, exec (.build op) s = .next t ∧ BuiltFrom
      ([natByte c 0, natByte c 1, natByte c 2, natByte c 3, natByte c 0, natByte c 1, natByte c 2, natByte c 3]
        ++ zeros 8 ++ [s.ports.utcHour, s.ports.utcMin, s.ports.utcHour, s.ports.utcMin] ++ zeros 4 ++ [op]
        ++ zeros 7) s t

/-- R72: every frame a BUILD produces has every frame invariant, item 7's residue included. -/
def Obligations.EveryBuiltFrameHasTheInvariants : Prop :=
  ∀ (op : Byte) (s t : State), exec (.build op) s = .next t → statusFrameValid t.status = true →
    FrameOk (frameBytes t.frame) ∧ crc8 (frameBytes t.frame) = 0x00#8

/-- R52: the 32-bit little-endian read of offsets 0 to 3 gives the counter for the three 32-bit strategies, and the 16-bit
big-endian read of offsets 16 to 17 gives the bucket value for CounterWithSignature. -/
def Obligations.FrameIntegersReadBack : Prop :=
  ∀ (op : Byte) (s t : State), exec (.build op) s = .next t → statusFrameValid t.status = true →
    (s.cfg.kind ≠ .rollingSessionId →
      (byteAt (frameBytes t.frame) 3 ++ byteAt (frameBytes t.frame) 2 ++ byteAt (frameBytes t.frame) 1
        ++ byteAt (frameBytes t.frame) 0).toNat = s.ports.ctr.toNat) ∧
    (s.cfg.kind = .counterWithSignature →
      (byteAt (frameBytes t.frame) 16 ++ byteAt (frameBytes t.frame) 17).toNat
        = s.ports.unixTime.toNat / s.cfg.bucketWidth % 65536)

/-- R131: BUILD neither reads nor writes `ACC`, and writes neither `CFG` nor `MATCH`. -/
def Obligations.BuildNeitherReadsNorWritesTheAccumulator : Prop :=
  ∀ (op a : Byte) (s : State), ∃ t, exec (.build op) s = .next t ∧
    exec (.build op) { s with acc := a } = .next { t with acc := a } ∧
    t.acc = s.acc ∧ t.cfg = s.cfg ∧ statusMatch t.status = statusMatch s.status

/-- R141: nothing of an earlier frame is reused: a BUILD over any held frame gives the frame it gives over none. -/
def Obligations.BuildReusesNothingOfAnEarlierFrame : Prop :=
  ∀ (op : Byte) (s : State) (m : Memory), ∃ t t', exec (.build op) s = .next t ∧
    exec (.build op) { s with frame := m } = .next t' ∧ frameBytes t'.frame = frameBytes t.frame ∧ t'.status = t.status

/-- R208: a BUILD reads only the ports its strategy uses (`CTR` always; none of the clock ports under kind 0, `UNIX_TIME`
under kind 1, all three under kind 2, hour and minute under kind 3), and no other command reads a port: another value of a
port not used changes nothing but that port. -/
def Obligations.UnusedPortsDoNotMatter : Prop :=
  (∀ (op : Byte) (s : State) (q : Ports), q.ctr = s.ports.ctr →
    (s.cfg.kind = .counterWithSignature ∨ s.cfg.kind = .rollingSessionId → q.unixTime = s.ports.unixTime) →
    (s.cfg.kind = .rollingSessionId ∨ s.cfg.kind = .tickOnly → q.utcHour = s.ports.utcHour ∧ q.utcMin = s.ports.utcMin) →
    ∃ t, exec (.build op) s = .next t ∧ exec (.build op) { s with ports := q } = .next { t with ports := q }) ∧
  (∀ (i : Instr) (s : State) (q : Ports), i.WellFormed → ¬ IsBuild i →
    ∃ t, exec i s = .next t ∧ exec i { s with ports := q } = .next { t with ports := q })

/-- R142: RELEASE empties FRAME and clears `FRAME_VALID`, and writes nothing else; in a state that has the invariant of R27
and holds no frame it changes nothing. -/
def Obligations.ReleaseDiscardsTheFrame : Prop :=
  (∀ s : State, ∃ t, exec .release s = .next t ∧ frameBytes t.frame = zeros 33 ∧ statusFrameValid t.status = false ∧
    statusErr t.status = statusErr s.status ∧ statusErrField t.status = statusErrField s.status ∧
    statusMatch t.status = statusMatch s.status ∧ t = { s with frame := t.frame, status := t.status }) ∧
  (∀ s : State, CoreInv s → statusFrameValid s.status = false → exec .release s = .next s)

/-- R143: NOP leaves the state as it was. -/
def Obligations.NopChangesNothing : Prop :=
  ∀ s : State, exec .nop s = .next s

/-- The CounterEcho frame rows complete where BUILD makes that frame: `KIND = 0` and `CTR` the row's counter (R132). That a
frame row is executed as the BUILD that yields it is the model's (log entry 5). -/
def Obligations.CounterEchoRowsComplete : Prop :=
  ∀ (n : BitVec 32) (s : State), s.cfg.kind = .counterEcho → s.ports.ctr.toNat = n.toNat →
    CompletesAsRow (.frameCeOpen n) 0x01#8 s ∧ CompletesAsRow (.frameCeClose n) 0x02#8 s

/-- The CounterWithSignature frame rows complete where BUILD makes that frame (R133; log entry 5). -/
def Obligations.CounterWithSignatureRowsComplete : Prop :=
  ∀ (n : BitVec 32) (m : Bytes4) (g : Bytes2) (v : BitVec 16) (s : State), s.cfg.kind = .counterWithSignature →
    s.ports.ctr.toNat = n.toNat → s.cfg.marker = m → s.cfg.sig = g →
    s.ports.unixTime.toNat / s.cfg.bucketWidth % 65536 = v.toNat →
    CompletesAsRow (.frameCwsOpen n m g v) 0x01#8 s ∧ CompletesAsRow (.frameCwsClose n m g v) 0x02#8 s

/-- The RollingSessionId frame rows complete where BUILD makes that frame, for every DIGEST (R134; log entry 5). -/
def Obligations.RollingSessionIdRowsComplete : Prop :=
  ∀ (c : Byte) (t : Bytes3) (hh mm : Byte) (s : State), s.cfg.kind = .rollingSessionId →
    s.ports.ctr.toNat % 256 = c.toNat → sessionTag s.ports.unixTime = t → s.ports.utcHour = hh → s.ports.utcMin = mm →
    CompletesAsRow (.frameRsiOpen c t hh mm) 0x01#8 s ∧ CompletesAsRow (.frameRsiClose c t hh mm) 0x02#8 s

/-- The TickOnly frame rows complete where BUILD makes that frame (R135; log entry 5). -/
def Obligations.TickOnlyRowsComplete : Prop :=
  ∀ (n : BitVec 32) (hh mm : Byte) (s : State), s.cfg.kind = .tickOnly → s.ports.ctr.toNat = n.toNat →
    s.ports.utcHour = hh → s.ports.utcMin = mm →
    CompletesAsRow (.frameToOpen n hh mm) 0x01#8 s ∧ CompletesAsRow (.frameToClose n hh mm) 0x02#8 s

/-- A frame row stops by name exactly where BUILD does not make that frame: always under another strategy than its own;
under its own, where the BUILD of the row's opcode (byte 24 of its bytes, R70) leaves other bytes in FRAME than the row's 33.
Where that BUILD leaves the row's 33 bytes, the row has that BUILD's effect (log entry 5, the model's choice). -/
def Obligations.FrameRowElsewhereIsRefused : Prop :=
  ∀ (i : Instr) (s : State) (kind : StrategyKind) (b : List Byte), i.frameKind = some kind → encode i = .frame b →
    (s.cfg.kind ≠ kind → exec i s = .refused .frameNotProduced) ∧
    (s.cfg.kind = kind → ∃ t, exec (.build (byteAt b 24)) s = .next t ∧
      exec i s = if frameBytes t.frame = b then .next t else .refused .frameNotProduced)

/-- Every successful BUILD is one of the frame rows of its strategy: same effect, and the row's 33 bytes are those in FRAME
(R71, R76). The frame rows' reading is the model's (log entry 5). -/
def Obligations.EverySuccessfulBuildIsAFrameRow : Prop :=
  ∀ (op : Byte) (s t : State), exec (.build op) s = .next t → statusFrameValid t.status = true →
    ∃ i, i.frameKind = some s.cfg.kind ∧ encode i = .frame (frameBytes t.frame) ∧ exec i s = .next t ∧
      decodeFrame s.cfg.kind (frameBytes t.frame) = .ok i

/-! ## The whole machine -/

/-- R20, R21, R23, R26, R28, R197: which instruction may write which register. `ACC` only CRC_CLR and CRC_UPD; FRAME and
`FRAME_VALID` only BUILD and RELEASE; `CFG` only CFG_WR; `MATCH` only CRC_CMP; `ERR` and `ERR_FIELD` only BUILD and CRC_CMP;
the inputs none. -/
def Obligations.EachRegisterHasItsOnlyWriters : Prop :=
  ∀ (i : Instr) (s t : State), exec i s = .next t →
    (t.acc ≠ s.acc → i = .crcClr ∨ ∃ d, i = .crcUpd d) ∧
    (t.frame ≠ s.frame → i = .release ∨ IsBuild i) ∧
    (t.cfg ≠ s.cfg → IsCfgWr i) ∧
    (statusFrameValid t.status ≠ statusFrameValid s.status → i = .release ∨ IsBuild i) ∧
    (statusMatch t.status ≠ statusMatch s.status → ∃ d, i = .crcCmp d) ∧
    (statusErr t.status ≠ statusErr s.status → (∃ d, i = .crcCmp d) ∨ IsBuild i) ∧
    (statusErrField t.status ≠ statusErrField s.status → (∃ d, i = .crcCmp d) ∨ IsBuild i) ∧
    t.ports = s.ports ∧ t.pending = s.pending

/-- R141: between a BUILD and the next BUILD, RELEASE or reset, FRAME and `FRAME_VALID` do not change, whatever other
commands run. The stream is the model's form of the host's commands (log entry 1). -/
def Obligations.HeldFrameIsFrozen : Prop :=
  ∀ (l : List Input) (s t : State), (∀ x ∈ l, ∃ cw p i, x = .command cw p ∧ decodeCommand cw = .ok i ∧
      i ≠ .release ∧ ∀ op, i ≠ .build op) →
    steps l.length (s.given l) = .next t → t.frame = s.frame ∧ statusFrameValid t.status = statusFrameValid s.status

/-- The invariant (R23, R25, R26, R27, R191) is kept by every instruction and every step, from every state that has it. -/
def Obligations.InvariantIsKept : Prop :=
  (∀ (i : Instr) (s t : State), CoreInv s → exec i s = .next t → CoreInv t) ∧
  (∀ s t : State, CoreInv s → step s = .next t → CoreInv t)

/-- The invariant holds right after reset, and whatever stream the host then gives. -/
def Obligations.InvariantHoldsAtReset : Prop :=
  CoreInv State.reset ∧ ∀ l : List Input, CoreInv (State.reset.given l)

/-- R27: in every state reached from reset under any stream of the host: no frame held means 33 zero bytes, a frame held
means every frame invariant. The stream, with reset as an entry of it, is the model's form of what the host does (log
entries 1 and 2). -/
def Obligations.ReachableStateHoldsAFrameOrZeros : Prop :=
  ∀ (l : List Input) (k : Nat) (t : State), steps k (State.reset.given l) = .next t →
    (statusFrameValid t.status = false → frameBytes t.frame = zeros 33) ∧
    (statusFrameValid t.status = true → FrameOk (frameBytes t.frame))

/-- R86: the macro CONFIG leaves the seven configuration bytes it names, `CTRL` last, and touches no other register. The
stream is the model's form of the host's commands (log entry 1). -/
def Obligations.ConfigMacroWritesTheConfiguration : Prop :=
  ∀ (s : State) (p : Ports) (kind : StrategyKind) (bsel : Bool) (m : Bytes4) (g : Bytes2),
    ∃ t, steps 7 (s.given (configStream p kind bsel m g)) = .next t ∧ t.cfg.kind = kind ∧ t.cfg.bsel = bsel ∧
      t.cfg.marker = m ∧ t.cfg.sig = g ∧ t.acc = s.acc ∧ t.frame = s.frame ∧ t.status = s.status ∧
      t.pending = s.pending

/-- R87: the macro SEND: after the BUILD the host either hands over exactly the 33 bytes in FRAME and releases them, after
which FRAME is zero and nothing can be handed over again, or hands over nothing. The stream, in two parts, is the model's
form of the host's commands (log entries 1 and 10). -/
def Obligations.SendHandsOverOneFrameAtMost : Prop :=
  ∀ (s : State) (p : Ports) (op : Byte), ∃ t, steps 1 (s.given (sendBuild p op)) = .next t ∧
    (statusErr t.status = 0#2 → handOver t = some (frameBytes t.frame) ∧ (sendRest p t).1 = handOver t ∧
      ∃ u, steps 1 (t.given (sendRest p t).2) = .next u ∧ frameBytes u.frame = zeros 33 ∧ handOver u = none) ∧
    (statusErr t.status ≠ 0#2 → sendRest p t = (none, []) ∧ handOver t = none)

/-- R12, R51: a write to FRAME inside the buffer changes exactly the bytes it stores and keeps the canonical form; one that
reaches past offset 32 faults. That it faults, and the form, are the model's (log entry 8). -/
def Obligations.FrameWriteChangesExactlyItsBytes : Prop :=
  ∀ (off : Nat) (bytes : List Byte) (s : State),
    (off + bytes.length ≤ 33 → ∃ t, memWrite off bytes s = .next t ∧
      (∀ k, k < bytes.length → t.frame.peek (off + k) = byteAt bytes k) ∧
      (∀ a, a < off ∨ off + bytes.length ≤ a → t.frame.peek a = s.frame.peek a) ∧
      (s.frame.wf = true → t.frame.wf = true) ∧ t = { s with frame := t.frame }) ∧
    (33 < off + bytes.length → ∃ a, memWrite off bytes s = .fault (.noSuchFrameOffset a))

/-- How a frame row comes to run (log entry 7): the placement sets the strategy, the ports and the BUILD command, and the
very next step leaves the row's 33 bytes in FRAME. RollingSessionId rows are left out: their tag is the digest's. -/
def Obligations.PlacedFrameRowIsProducedByTheNextStep : Prop :=
  ∀ (i : Instr) (s : State) (kind : StrategyKind), i.frameKind = some kind → kind ≠ .rollingSessionId →
    ∃ t, step (presentRow i s) = .next t ∧ encode i = .frame (frameBytes t.frame) ∧
      statusFrameValid t.status = true ∧ t.cfg.kind = kind ∧ t.acc = s.acc ∧ t.pending = s.pending
end

