-- ==== Sys2Proof/Laws/Checksum.lean ====
section
/-! SUPPORT. The checksum functions: folding over a concatenation, and the shift as a linear map of one byte. -/

namespace Sys2Proof.Machine

@[simp] theorem crc8From_nil (a : Byte) : crc8From a [] = a := rfl

@[simp] theorem crc8From_cons (a d : Byte) (s : List Byte) : crc8From a (d :: s) = crc8From (crc8Step a d) s := rfl

theorem crc8From_append (a : Byte) (s t : List Byte) : crc8From a (s ++ t) = crc8From (crc8From a s) t := by
  induction s generalizing a with
  | nil => rfl
  | cons d s ih => simp [ih]

theorem crc8_append (s t : List Byte) : crc8 (s ++ t) = crc8From (crc8 s) t := crc8From_append _ s t

/-- The step depends on the register and the data byte only through their xor (R100). -/
theorem crc8Step_eq (a d : Byte) : crc8Step a d = crc8Rounds 8 (a ^^^ d) := rfl

end Sys2Proof.Machine
end

