-- ==== Sys2Proof/Laws/Flags.lean ====
section
/-! SUPPORT. Each field of `STATUS` read after each field is written: a write changes its own field and no other (R26). -/

namespace Sys2Proof.Machine

@[simp] theorem statusErr_withErr (st : Byte) (c : BitVec 2) : statusErr (withErr st c) = c := by
  revert st c; decide

@[simp] theorem statusErr_withMatch (st : Byte) (b : Bool) : statusErr (withMatch st b) = statusErr st := by
  revert st b; decide

@[simp] theorem statusErr_withFrameValid (st : Byte) (b : Bool) : statusErr (withFrameValid st b) = statusErr st := by
  revert st b; decide

@[simp] theorem statusErr_withErrField (st : Byte) (c : BitVec 4) : statusErr (withErrField st c) = statusErr st := by
  revert st c; decide

@[simp] theorem statusMatch_withErr (st : Byte) (c : BitVec 2) : statusMatch (withErr st c) = statusMatch st := by
  revert st c; decide

@[simp] theorem statusMatch_withMatch (st : Byte) (b : Bool) : statusMatch (withMatch st b) = b := by
  revert st b; decide

@[simp] theorem statusMatch_withFrameValid (st : Byte) (b : Bool) : statusMatch (withFrameValid st b) = statusMatch st := by
  revert st b; decide

@[simp] theorem statusMatch_withErrField (st : Byte) (c : BitVec 4) : statusMatch (withErrField st c) = statusMatch st := by
  revert st c; decide

@[simp] theorem statusFrameValid_withErr (st : Byte) (c : BitVec 2) : statusFrameValid (withErr st c) = statusFrameValid st := by
  revert st c; decide

@[simp] theorem statusFrameValid_withMatch (st : Byte) (b : Bool) : statusFrameValid (withMatch st b) = statusFrameValid st := by
  revert st b; decide

@[simp] theorem statusFrameValid_withFrameValid (st : Byte) (b : Bool) : statusFrameValid (withFrameValid st b) = b := by
  revert st b; decide

@[simp] theorem statusFrameValid_withErrField (st : Byte) (c : BitVec 4) : statusFrameValid (withErrField st c) = statusFrameValid st := by
  revert st c; decide

@[simp] theorem statusErrField_withErr (st : Byte) (c : BitVec 2) : statusErrField (withErr st c) = statusErrField st := by
  revert st c; decide

@[simp] theorem statusErrField_withMatch (st : Byte) (b : Bool) : statusErrField (withMatch st b) = statusErrField st := by
  revert st b; decide

@[simp] theorem statusErrField_withFrameValid (st : Byte) (b : Bool) : statusErrField (withFrameValid st b) = statusErrField st := by
  revert st b; decide

@[simp] theorem statusErrField_withErrField (st : Byte) (c : BitVec 4) : statusErrField (withErrField st c) = c := by
  revert st c; decide

/-- `STATUS` is its four fields. -/
theorem status_ext {st st' : Byte} (h1 : statusErr st = statusErr st') (h2 : statusMatch st = statusMatch st')
    (h3 : statusFrameValid st = statusFrameValid st') (h4 : statusErrField st = statusErrField st') : st = st' := by
  simp only [statusErr, statusMatch, statusFrameValid, statusErrField] at h1 h2 h3 h4
  apply BitVec.eq_of_getLsbD_eq
  intro i hi
  have e1 := fun j => congrArg (fun v => v.getLsbD j) h1
  have e4 := fun j => congrArg (fun v => v.getLsbD j) h4
  simp only [BitVec.getLsbD_extractLsb'] at e1 e4
  have : i = 0 ∨ i = 1 ∨ i = 2 ∨ i = 3 ∨ i = 4 ∨ i = 5 ∨ i = 6 ∨ i = 7 := by omega
  rcases this with rfl | rfl | rfl | rfl | rfl | rfl | rfl | rfl
  · simpa using e1 0
  · simpa using e1 1
  · exact h2
  · exact h3
  · simpa using e4 0
  · simpa using e4 1
  · simpa using e4 2
  · simpa using e4 3

end Sys2Proof.Machine
end

