-- ==== Sys2Proof/Laws/Frame.lean ====
section
/-! SUPPORT. The layout of a frame read at its offsets. -/

namespace Sys2Proof.Machine

@[simp] theorem layout_length (f : BodyFields) : (layout f).length = 32 := rfl

@[simp] theorem sealed_length (f : BodyFields) : (sealed (layout f)).length = 33 := rfl

/-- The body of a sealed body is that body. -/
@[simp] theorem sealed_take (f : BodyFields) : (sealed (layout f)).take 32 = layout f := rfl

/-- The last byte of a sealed body is the body's checksum. -/
@[simp] theorem sealed_checksum (f : BodyFields) : byteAt (sealed (layout f)) 32 = crc8 (layout f) := rfl

/-- The free fields of a sealed body are the fields it was made from. -/
@[simp] theorem fieldsOfFrame_sealed (f : BodyFields) : fieldsOfFrame (sealed (layout f)) = f := rfl

/-- The nonce stands at offset 0, its echo at offset 4 (R165). -/
theorem sealed_nonce (f : BodyFields) : bytes4At (sealed (layout f)) 0 = f.nonce := rfl

theorem sealed_echo (f : BodyFields) : bytes4At (sealed (layout f)) 4 = f.nonce := rfl

@[simp] theorem sealed_reserved (f : BodyFields) :
    reservedOffsets.all (fun k => byteAt (sealed (layout f)) k == 0x00#8) = true := rfl

end Sys2Proof.Machine
end

