-- ==== Sys2Proof/Laws/Memory.lean ====
section
/-! SUPPORT. The FRAME space: a read after a write, the frame of a write, and the canonical form. -/

namespace Sys2Proof.Machine

/-- Whether a memory lists an offset. -/
def Memory.Lists (m : Memory) (c : Nat) : Prop := ∃ x ∈ m, x.1 = c

theorem Memory.peek_eq_zero {m : Memory} {c : Nat} (h : ¬ m.Lists c) : m.peek c = 0x00#8 := by
  induction m with
  | nil => rfl
  | cons x m ih =>
    obtain ⟨k, v⟩ := x
    have hk : k ≠ c := fun hk => h ⟨(k, v), by simp, hk⟩
    rw [Memory.peek, if_neg hk]
    exact ih fun ⟨y, hy, hc⟩ => h ⟨y, by simp [hy], hc⟩

theorem Memory.peek_append_left {m m' : Memory} {c : Nat} (h : ¬ m'.Lists c) : Memory.peek (m ++ m') c = m.peek c := by
  induction m with
  | nil => exact Memory.peek_eq_zero h
  | cons x m ih => obtain ⟨k, v⟩ := x; simp [Memory.peek, ih]

theorem Memory.peek_append_right {m m' : Memory} {c : Nat} (h : ¬ m.Lists c) : Memory.peek (m ++ m') c = m'.peek c := by
  induction m with
  | nil => rfl
  | cons x m ih =>
    obtain ⟨k, v⟩ := x
    have hk : k ≠ c := fun hk => h ⟨(k, v), by simp, hk⟩
    simp only [List.cons_append, Memory.peek, if_neg hk]
    exact ih fun ⟨y, hy, hc⟩ => h ⟨y, by simp [hy], hc⟩

theorem Memory.peek_filter {m : Memory} {p : Host.Cell → Bool} {c : Nat} (h : ∀ v, p (c, v) = true) :
    Memory.peek (m.filter p) c = m.peek c := by
  induction m with
  | nil => rfl
  | cons x m ih =>
    obtain ⟨k, v⟩ := x
    by_cases hk : k = c
    · subst hk; simp [Memory.peek, h v]
    · cases hp : p (k, v) <;> simp [Memory.peek, hp, hk, ih]

theorem Memory.lists_cells {bs : List Byte} {a c : Nat} (h : (Memory.cells a bs).Lists c) : a ≤ c ∧ c < a + bs.length := by
  induction bs generalizing a with
  | nil => obtain ⟨x, hx, _⟩ := h; simp [Memory.cells] at hx
  | cons b bs ih =>
    obtain ⟨x, hx, hc⟩ := h
    simp only [List.length_cons]
    by_cases hb : b = 0x00#8
    · rw [Memory.cells, if_pos hb] at hx
      have := ih ⟨x, hx, hc⟩; omega
    · rw [Memory.cells, if_neg hb, List.mem_cons] at hx
      rcases hx with rfl | hx
      · simp only at hc; omega
      · have := ih ⟨x, hx, hc⟩; omega

theorem Memory.peek_cells (bs : List Byte) (a c : Nat) (h : a ≤ c) :
    (Memory.cells a bs).peek c = bs.getD (c - a) 0x00#8 := by
  induction bs generalizing a with
  | nil => simp [Memory.cells, Memory.peek]
  | cons b bs ih =>
    by_cases hc : c = a
    · subst hc
      by_cases hb : b = 0x00#8
      · rw [Memory.cells, if_pos hb, Memory.peek_eq_zero fun hl => by have := Memory.lists_cells hl; omega]
        simp [hb]
      · simp [Memory.cells, hb, Memory.peek]
    · obtain ⟨j, hj⟩ : ∃ j, c - a = j + 1 := ⟨c - a - 1, by omega⟩
      have hr := ih (a + 1) (by omega)
      rw [show c - (a + 1) = j by omega] at hr
      by_cases hb : b = 0x00#8
      · simp [Memory.cells, hb, hr, hj]
      · simp [Memory.cells, hb, Memory.peek, Ne.symm hc, hr, hj]

/-- A read after a write of bytes: the byte written there, every other byte as before. -/
theorem Memory.peek_store (m : Memory) (off : Nat) (bs : List Byte) (c : Nat) :
    (m.store off bs).peek c = if off ≤ c ∧ c < off + bs.length then bs.getD (c - off) 0x00#8 else m.peek c := by
  have hb : ∀ c, off ≤ c → ¬ (m.below off).Lists c := fun c hc ⟨x, hx, he⟩ => by
    simp only [Memory.below, List.mem_filter, decide_eq_true_eq] at hx; omega
  have ha : ∀ c, c < off + bs.length → ¬ (m.above (off + bs.length)).Lists c := fun c hc ⟨x, hx, he⟩ => by
    simp only [Memory.above, List.mem_filter, decide_eq_true_eq] at hx; omega
  unfold Memory.store
  by_cases h1 : c < off
  · rw [if_neg (by omega), Memory.peek_append_left, Memory.below, Memory.peek_filter (by simp [h1])]
    rintro ⟨x, hx, he⟩
    rcases List.mem_append.1 hx with hx | hx
    · have := Memory.lists_cells ⟨x, hx, he⟩; omega
    · exact ha c (by omega) ⟨x, hx, he⟩
  · rw [Memory.peek_append_right (hb c (by omega))]
    by_cases h2 : c < off + bs.length
    · rw [if_pos ⟨by omega, h2⟩, Memory.peek_append_left (ha c h2), Memory.peek_cells _ _ _ (by omega)]
    · rw [if_neg (by omega), Memory.peek_append_right, Memory.above, Memory.peek_filter]
      · intro v; simp; omega
      · intro hl; have := Memory.lists_cells hl; omega

theorem Memory.wfFrom_mono {m : Memory} {lo lo' : Nat} (h : lo' ≤ lo) (hm : Memory.wfFrom lo m = true) :
    Memory.wfFrom lo' m = true := by
  cases m with
  | nil => rfl
  | cons x m =>
    obtain ⟨k, v⟩ := x
    simp only [Memory.wfFrom, Bool.and_eq_true, decide_eq_true_eq] at hm ⊢
    exact ⟨⟨⟨by omega, hm.1.1.2⟩, hm.1.2⟩, hm.2⟩

theorem Memory.wfFrom_filter {m : Memory} {lo lo' : Nat} {p : Host.Cell → Bool} (hm : Memory.wfFrom lo m = true)
    (h : ∀ x ∈ m, p x = true → lo' ≤ x.1) : Memory.wfFrom lo' (m.filter p) = true := by
  induction m generalizing lo lo' with
  | nil => rfl
  | cons x m ih =>
    obtain ⟨k, v⟩ := x
    simp only [Memory.wfFrom, Bool.and_eq_true, decide_eq_true_eq] at hm
    have hge : ∀ y ∈ m, k + 1 ≤ y.1 := by
      clear ih h
      have hw := hm.2
      intro y hy
      induction m generalizing k v with
      | nil => simp at hy
      | cons z m ihm =>
        obtain ⟨k', v'⟩ := z
        simp only [Memory.wfFrom, Bool.and_eq_true, decide_eq_true_eq] at hw
        rcases List.mem_cons.1 hy with rfl | hy
        · exact hw.1.1.1
        · have := ihm k' v' ⟨⟨⟨by omega, hw.1.1.2⟩, hw.1.2⟩, hw.2⟩ hw.2 hy
          omega
    cases hp : p (k, v) with
    | false =>
      rw [List.filter_cons, if_neg (by simp [hp])]
      exact ih hm.2 fun y hy hpy => h y (by simp [hy]) hpy
    | true =>
      rw [List.filter_cons, if_pos hp]
      simp only [Memory.wfFrom, Bool.and_eq_true, decide_eq_true_eq]
      exact ⟨⟨⟨h (k, v) (by simp) hp, hm.1.1.2⟩, hm.1.2⟩, ih hm.2 fun y hy _ => hge y hy⟩

theorem Memory.wfFrom_append {m m' : Memory} {lo mid : Nat} (h : lo ≤ mid) (hm : Memory.wfFrom lo m = true)
    (hlt : ∀ x ∈ m, x.1 < mid) (hm' : Memory.wfFrom mid m' = true) : Memory.wfFrom lo (m ++ m') = true := by
  induction m generalizing lo with
  | nil => exact Memory.wfFrom_mono h hm'
  | cons x m ih =>
    obtain ⟨k, v⟩ := x
    simp only [List.cons_append, Memory.wfFrom, Bool.and_eq_true, decide_eq_true_eq] at hm ⊢
    exact ⟨hm.1, ih (hlt (k, v) (by simp)) hm.2 fun y hy => hlt y (by simp [hy])⟩

theorem Memory.wfFrom_cells {bs : List Byte} {a : Nat} (h : a + bs.length ≤ frameLen) :
    Memory.wfFrom a (Memory.cells a bs) = true := by
  induction bs generalizing a with
  | nil => rfl
  | cons b bs ih =>
    simp only [List.length_cons] at h
    have hr := ih (a := a + 1) (by omega)
    by_cases hb : b = 0x00#8
    · simpa [Memory.cells, hb] using Memory.wfFrom_mono (by omega) hr
    · simp only [Memory.cells, if_neg hb, Memory.wfFrom, Bool.and_eq_true, decide_eq_true_eq, bne_iff_ne, ne_eq]
      exact ⟨⟨⟨by omega, by omega⟩, hb⟩, hr⟩

/-- A write inside the space keeps the canonical form. -/
theorem Memory.wf_store {m : Memory} {off : Nat} {bs : List Byte} (h : off + bs.length ≤ frameLen) (hm : m.wf = true) :
    (m.store off bs).wf = true := by
  refine Memory.wfFrom_append (Nat.zero_le off) (Memory.wfFrom_filter hm fun x _ _ => Nat.zero_le _) ?_ ?_
  · intro x hx; simpa [Memory.below] using (List.mem_filter.1 hx).2
  · refine Memory.wfFrom_append (mid := off + bs.length) (by omega) (Memory.wfFrom_cells h) ?_
      (Memory.wfFrom_filter hm fun x _ hx => by simpa using hx)
    intro x hx; exact (Memory.lists_cells ⟨x, hx, rfl⟩).2

theorem Memory.peek_of_wfFrom_lt {m : Memory} {lo c : Nat} (hm : Memory.wfFrom lo m = true) (hc : c < lo) :
    m.peek c = 0x00#8 := by
  induction m generalizing lo with
  | nil => rfl
  | cons x m ih =>
    obtain ⟨k, v⟩ := x
    simp only [Memory.wfFrom, Bool.and_eq_true, decide_eq_true_eq] at hm
    rw [Memory.peek, if_neg (by omega)]
    exact ih hm.2 (by omega)

/-- Outside the space a canonical memory lists nothing. -/
theorem Memory.peek_of_wfFrom_ge {m : Memory} {lo c : Nat} (hm : Memory.wfFrom lo m = true) (hc : frameLen ≤ c) :
    m.peek c = 0x00#8 := by
  induction m generalizing lo with
  | nil => rfl
  | cons x m ih =>
    obtain ⟨k, v⟩ := x
    simp only [Memory.wfFrom, Bool.and_eq_true, decide_eq_true_eq] at hm
    rw [Memory.peek, if_neg (by omega)]
    exact ih hm.2

/-- Canonical memories with equal contents are equal data. -/
theorem Memory.ext_of_wfFrom {m m' : Memory} {lo : Nat} (hm : Memory.wfFrom lo m = true)
    (hm' : Memory.wfFrom lo m' = true) (h : ∀ c, m.peek c = m'.peek c) : m = m' := by
  induction m generalizing m' lo with
  | nil =>
    cases m' with
    | nil => rfl
    | cons y m' =>
      obtain ⟨k, v⟩ := y
      simp only [Memory.wfFrom, Bool.and_eq_true, decide_eq_true_eq, bne_iff_ne, ne_eq] at hm'
      have := h k
      simp only [Memory.peek, if_true] at this
      exact absurd this.symm hm'.1.2
  | cons x m ih =>
    obtain ⟨k, v⟩ := x
    simp only [Memory.wfFrom, Bool.and_eq_true, decide_eq_true_eq, bne_iff_ne, ne_eq] at hm
    cases m' with
    | nil =>
      have := h k
      simp only [Memory.peek, if_true] at this
      exact absurd this hm.1.2
    | cons y m' =>
      obtain ⟨k', v'⟩ := y
      simp only [Memory.wfFrom, Bool.and_eq_true, decide_eq_true_eq, bne_iff_ne, ne_eq] at hm'
      have hkk : k = k' := by
        by_contra hne
        rcases Nat.lt_or_gt_of_ne hne with hlt | hlt
        · have hk := h k
          simp only [Memory.peek, if_true] at hk
          rw [if_neg (by omega), Memory.peek_of_wfFrom_lt hm'.2 (by omega)] at hk
          exact hm.1.2 hk
        · have hk := h k'
          simp only [Memory.peek, if_true] at hk
          rw [if_neg (by omega), Memory.peek_of_wfFrom_lt hm.2 (by omega)] at hk
          exact hm'.1.2 hk.symm
      subst hkk
      have hv := h k
      simp only [Memory.peek, if_true] at hv
      subst hv
      congr 1
      refine ih hm.2 hm'.2 fun c => ?_
      by_cases hc : k = c
      · subst hc
        rw [Memory.peek_of_wfFrom_lt hm.2 (by omega), Memory.peek_of_wfFrom_lt hm'.2 (by omega)]
      · have := h c
        simpa [Memory.peek, hc] using this

/-- Canonical memories with equal 33 bytes are equal data. -/
theorem Memory.ext_of_wf {m m' : Memory} (hm : m.wf = true) (hm' : m'.wf = true)
    (h : frameBytes m = frameBytes m') : m = m' := by
  refine Memory.ext_of_wfFrom hm hm' fun c => ?_
  by_cases hc : c < frameLen
  · have := congrArg (fun l => l.getD c 0x00#8) h
    simpa [frameBytes, List.getD_eq_getElem?_getD, hc] using this
  · rw [Memory.peek_of_wfFrom_ge hm (by omega), Memory.peek_of_wfFrom_ge hm' (by omega)]

@[simp] theorem frameBytes_length (m : Memory) : (frameBytes m).length = 33 := by simp [frameBytes]

/-- Writing all 33 bytes makes them the contents, whatever was there. -/
theorem frameBytes_store {bs : List Byte} (m : Memory) (h : bs.length = 33) : frameBytes (m.store 0 bs) = bs := by
  apply List.ext_getElem
  · simp [h]
  · intro i h1 h2
    simp only [frameBytes_length] at h1
    simp [frameBytes, Memory.peek_store, h, h1, List.getD_eq_getElem?_getD]

theorem Memory.cells_append (a : Nat) (bs cs : List Byte) :
    Memory.cells a (bs ++ cs) = Memory.cells a bs ++ Memory.cells (a + bs.length) cs := by
  induction bs generalizing a with
  | nil => simp [Memory.cells]
  | cons b bs ih =>
    by_cases hb : b = 0x00#8
    · simp [Memory.cells, hb, ih, Nat.add_assoc, Nat.add_comm]
    · simp [Memory.cells, hb, ih, Nat.add_assoc, Nat.add_comm]

/-- The two writes of a successful BUILD are one write of 33 bytes. -/
theorem Memory.store_store (m : Memory) (off : Nat) (bs cs : List Byte) :
    (m.store off bs).store (off + bs.length) cs = m.store off (bs ++ cs) := by
  have hb : (m.store off bs).below (off + bs.length) = m.below off ++ Memory.cells off bs := by
    simp only [Memory.store, Memory.below, Memory.above, List.filter_append, List.filter_filter]
    have h1 : List.filter (fun c : Host.Cell => decide (c.1 < off + bs.length) && decide (c.1 < off)) m
        = List.filter (fun c => decide (c.1 < off)) m := by
      apply List.filter_congr; intro x _
      by_cases hx : x.1 < off
      · simp [hx]; omega
      · simp [hx]
    have h2 : List.filter (fun c : Host.Cell => decide (c.1 < off + bs.length)) (Memory.cells off bs)
        = Memory.cells off bs := by
      apply List.filter_eq_self.2; intro x hx
      simpa using (Memory.lists_cells ⟨x, hx, rfl⟩).2
    have h3 : List.filter (fun c : Host.Cell => decide (c.1 < off + bs.length) && decide (off + bs.length ≤ c.1)) m
        = [] := by
      apply List.filter_eq_nil_iff.2; intro x _; simp
    rw [h1, h2, h3, List.append_nil]
  have ha : (m.store off bs).above (off + bs.length + cs.length) = m.above (off + bs.length + cs.length) := by
    simp only [Memory.store, Memory.below, Memory.above, List.filter_append, List.filter_filter]
    have h1 : List.filter (fun c : Host.Cell =>
        decide (off + bs.length + cs.length ≤ c.1) && decide (c.1 < off)) m = [] := by
      apply List.filter_eq_nil_iff.2; intro x _; simp; omega
    have h2 : List.filter (fun c : Host.Cell => decide (off + bs.length + cs.length ≤ c.1)) (Memory.cells off bs)
        = [] := by
      apply List.filter_eq_nil_iff.2; intro x hx
      have := (Memory.lists_cells ⟨x, hx, rfl⟩).2
      simp; omega
    have h3 : List.filter (fun c : Host.Cell =>
        decide (off + bs.length + cs.length ≤ c.1) && decide (off + bs.length ≤ c.1)) m
        = List.filter (fun c => decide (off + bs.length + cs.length ≤ c.1)) m := by
      apply List.filter_congr; intro x _
      by_cases hx : off + bs.length + cs.length ≤ x.1
      · simp [hx]; omega
      · simp [hx]
    rw [h1, h2, h3, List.nil_append, List.nil_append]
  rw [Memory.store, hb, ha]
  simp [Memory.store, Memory.cells_append, Nat.add_assoc]

end Sys2Proof.Machine
end

