-- ==== Sys2Proof/Laws/State.lean ====
section
/-! SUPPORT. Each update of the state read at each field. -/

namespace Sys2Proof.Machine

@[simp] theorem writeAcc_acc (v : Byte) (s : State) : (writeAcc v s).acc = v := rfl
@[simp] theorem writeAcc_frame (v : Byte) (s : State) : (writeAcc v s).frame = s.frame := rfl
@[simp] theorem writeAcc_cfg (v : Byte) (s : State) : (writeAcc v s).cfg = s.cfg := rfl
@[simp] theorem writeAcc_status (v : Byte) (s : State) : (writeAcc v s).status = s.status := rfl
@[simp] theorem writeAcc_ports (v : Byte) (s : State) : (writeAcc v s).ports = s.ports := rfl
@[simp] theorem writeAcc_pending (v : Byte) (s : State) : (writeAcc v s).pending = s.pending := rfl

@[simp] theorem writeMatch_acc (b : Bool) (s : State) : (writeMatch b s).acc = s.acc := rfl
@[simp] theorem writeMatch_frame (b : Bool) (s : State) : (writeMatch b s).frame = s.frame := rfl
@[simp] theorem writeMatch_cfg (b : Bool) (s : State) : (writeMatch b s).cfg = s.cfg := rfl
@[simp] theorem writeMatch_status (b : Bool) (s : State) : (writeMatch b s).status = withMatch s.status b := rfl
@[simp] theorem writeMatch_ports (b : Bool) (s : State) : (writeMatch b s).ports = s.ports := rfl
@[simp] theorem writeMatch_pending (b : Bool) (s : State) : (writeMatch b s).pending = s.pending := rfl

@[simp] theorem writeFrameValid_acc (b : Bool) (s : State) : (writeFrameValid b s).acc = s.acc := rfl
@[simp] theorem writeFrameValid_frame (b : Bool) (s : State) : (writeFrameValid b s).frame = s.frame := rfl
@[simp] theorem writeFrameValid_cfg (b : Bool) (s : State) : (writeFrameValid b s).cfg = s.cfg := rfl
@[simp] theorem writeFrameValid_status (b : Bool) (s : State) : (writeFrameValid b s).status = withFrameValid s.status b := rfl
@[simp] theorem writeFrameValid_ports (b : Bool) (s : State) : (writeFrameValid b s).ports = s.ports := rfl
@[simp] theorem writeFrameValid_pending (b : Bool) (s : State) : (writeFrameValid b s).pending = s.pending := rfl

@[simp] theorem report_acc (e : ErrKind) (i : ErrField) (s : State) : (report e i s).acc = s.acc := rfl
@[simp] theorem report_frame (e : ErrKind) (i : ErrField) (s : State) : (report e i s).frame = s.frame := rfl
@[simp] theorem report_cfg (e : ErrKind) (i : ErrField) (s : State) : (report e i s).cfg = s.cfg := rfl
@[simp] theorem report_status (e : ErrKind) (i : ErrField) (s : State) : (report e i s).status = withErrField (withErr s.status (errCode e)) (errFieldCode i) := rfl
@[simp] theorem report_ports (e : ErrKind) (i : ErrField) (s : State) : (report e i s).ports = s.ports := rfl
@[simp] theorem report_pending (e : ErrKind) (i : ErrField) (s : State) : (report e i s).pending = s.pending := rfl

@[simp] theorem raise_acc (e : ErrKind) (i : ErrField) (s : State) : (raise e i s).acc = s.acc := rfl
@[simp] theorem raise_frame (e : ErrKind) (i : ErrField) (s : State) : (raise e i s).frame = s.frame := rfl
@[simp] theorem raise_cfg (e : ErrKind) (i : ErrField) (s : State) : (raise e i s).cfg = s.cfg := rfl
@[simp] theorem raise_status (e : ErrKind) (i : ErrField) (s : State) : (raise e i s).status = withErrField (withErr s.status (errCode e)) (errFieldCode i) := rfl
@[simp] theorem raise_ports (e : ErrKind) (i : ErrField) (s : State) : (raise e i s).ports = s.ports := rfl
@[simp] theorem raise_pending (e : ErrKind) (i : ErrField) (s : State) : (raise e i s).pending = s.pending := rfl

@[simp] theorem reportOk_acc (s : State) : (reportOk s).acc = s.acc := rfl
@[simp] theorem reportOk_frame (s : State) : (reportOk s).frame = s.frame := rfl
@[simp] theorem reportOk_cfg (s : State) : (reportOk s).cfg = s.cfg := rfl
@[simp] theorem reportOk_status (s : State) : (reportOk s).status = withErrField (withErr s.status 0#2) 0#4 := rfl
@[simp] theorem reportOk_ports (s : State) : (reportOk s).ports = s.ports := rfl
@[simp] theorem reportOk_pending (s : State) : (reportOk s).pending = s.pending := rfl

@[simp] theorem writeCfg_acc (i : Nat) (d : Byte) (s : State) : (writeCfg i d s).acc = s.acc := rfl
@[simp] theorem writeCfg_frame (i : Nat) (d : Byte) (s : State) : (writeCfg i d s).frame = s.frame := rfl
@[simp] theorem writeCfg_cfg (i : Nat) (d : Byte) (s : State) : (writeCfg i d s).cfg = s.cfg.write i d := rfl
@[simp] theorem writeCfg_status (i : Nat) (d : Byte) (s : State) : (writeCfg i d s).status = s.status := rfl
@[simp] theorem writeCfg_ports (i : Nat) (d : Byte) (s : State) : (writeCfg i d s).ports = s.ports := rfl
@[simp] theorem writeCfg_pending (i : Nat) (d : Byte) (s : State) : (writeCfg i d s).pending = s.pending := rfl

@[simp] theorem assertReset_acc (s : State) : (assertReset s).acc = 0x00#8 := rfl
@[simp] theorem assertReset_frame (s : State) : (assertReset s).frame = [] := rfl
@[simp] theorem assertReset_cfg (s : State) : (assertReset s).cfg = Cfg.reset := rfl
@[simp] theorem assertReset_status (s : State) : (assertReset s).status = 0x00#8 := rfl
@[simp] theorem assertReset_ports (s : State) : (assertReset s).ports = s.ports := rfl
@[simp] theorem assertReset_pending (s : State) : (assertReset s).pending = s.pending := rfl

@[simp] theorem present_acc (cw : BitVec 16) (p : Ports) (s : State) : (present cw p s).acc = s.acc := rfl
@[simp] theorem present_frame (cw : BitVec 16) (p : Ports) (s : State) : (present cw p s).frame = s.frame := rfl
@[simp] theorem present_cfg (cw : BitVec 16) (p : Ports) (s : State) : (present cw p s).cfg = s.cfg := rfl
@[simp] theorem present_status (cw : BitVec 16) (p : Ports) (s : State) : (present cw p s).status = s.status := rfl
@[simp] theorem present_ports (cw : BitVec 16) (p : Ports) (s : State) : (present cw p s).ports = s.ports := rfl
@[simp] theorem present_pending (cw : BitVec 16) (p : Ports) (s : State) : (present cw p s).pending = .command cw p :: s.pending := rfl

end Sys2Proof.Machine
end

