-- ==== Sys2Proof/Laws/Ops.lean ====
section
/-! SUPPORT. For each shared operation, once, everything it can do; then the cases of BUILD and of a step. -/

namespace Sys2Proof.Machine

/-- A write to FRAME answers the bytes written, or a fault at an offset that does not exist; nothing else. -/
theorem memWrite_cases (off : Nat) (bs : List Byte) (s : State) :
    (off + bs.length ≤ 33 ∧ memWrite off bs s = .next { s with frame := s.frame.store off bs }) ∨
    (33 < off + bs.length ∧ memWrite off bs s = .fault (.noSuchFrameOffset (off + bs.length - 1))) := by
  unfold memWrite
  by_cases h : off + bs.length ≤ frameLen
  · exact .inl ⟨h, if_pos h⟩
  · exact .inr ⟨by simpa using h, if_neg h⟩

/-- A read of FRAME answers the bytes there, or a fault at an offset that does not exist; nothing else. -/
theorem memRead_cases (off n : Nat) (s : State) :
    (off + n ≤ 33 ∧ memRead off n s = .ok ((List.range n).map fun k => s.frame.peek (off + k))) ∨
    (33 < off + n ∧ memRead off n s = .error (.noSuchFrameOffset (off + n - 1))) := by
  unfold memRead
  by_cases h : off + n ≤ frameLen
  · exact .inl ⟨h, if_pos h⟩
  · exact .inr ⟨by simpa using h, if_neg h⟩

/-- A write inside the buffer. -/
theorem memWrite_next {off : Nat} {bs : List Byte} (s : State) (h : off + bs.length ≤ 33) :
    memWrite off bs s = .next { s with frame := s.frame.store off bs } := if_pos h

@[simp] theorem andThen_next (s : State) (f : State → Result) : andThen (.next s) f = f s := rfl

/-- A rule that goes on has had every part go on. -/
theorem andThen_eq_next {o : Result} {f : State → Result} {t : State} (h : andThen o f = .next t) :
    ∃ s, o = .next s ∧ f s = .next t := by
  cases o with
  | next s => exact ⟨s, rfl, h⟩
  | fault r => cases h
  | refused r => cases h

/-- The state after FRAME is emptied. -/
def emptied (s : State) : State :=
  { s with frame := s.frame.store 0 (zeros 33), status := withFrameValid s.status false }

/-- The state after a body and its checksum are stored and reported as a success. -/
def filled (body : List Byte) (s : State) : State :=
  { s with frame := s.frame.store 0 (sealed body)
           status := withFrameValid (withErrField (withErr s.status 0#2) 0#4) true }

@[simp] theorem emptied_acc (s : State) : (emptied s).acc = s.acc := rfl
@[simp] theorem emptied_cfg (s : State) : (emptied s).cfg = s.cfg := rfl
@[simp] theorem emptied_ports (s : State) : (emptied s).ports = s.ports := rfl
@[simp] theorem emptied_pending (s : State) : (emptied s).pending = s.pending := rfl
@[simp] theorem emptied_status (s : State) : (emptied s).status = withFrameValid s.status false := rfl
@[simp] theorem emptied_frame (s : State) : (emptied s).frame = s.frame.store 0 (zeros 33) := rfl
@[simp] theorem filled_acc (b : List Byte) (s : State) : (filled b s).acc = s.acc := rfl
@[simp] theorem filled_cfg (b : List Byte) (s : State) : (filled b s).cfg = s.cfg := rfl
@[simp] theorem filled_ports (b : List Byte) (s : State) : (filled b s).ports = s.ports := rfl
@[simp] theorem filled_pending (b : List Byte) (s : State) : (filled b s).pending = s.pending := rfl
@[simp] theorem filled_status (b : List Byte) (s : State) :
    (filled b s).status = withFrameValid (withErrField (withErr s.status 0#2) 0#4) true := rfl
@[simp] theorem filled_frame (b : List Byte) (s : State) :
    (filled b s).frame = s.frame.store 0 (sealed b) := rfl

/-- FRAME emptied: always completes, and writes FRAME and `FRAME_VALID` only. -/
theorem discardFrame_eq (s : State) : discardFrame s = .next (emptied s) := by
  unfold discardFrame
  rw [memWrite_next s (by simp), andThen_next, writeFrameValid, emptied]

/-- The successful completion of BUILD: always completes, and writes FRAME, `FRAME_VALID`, `ERR`, `ERR_FIELD` only. -/
theorem completeBuild_eq {body : List Byte} (s : State) (h : body.length = 32) :
    completeBuild body s = .next (filled body s) := by
  unfold completeBuild
  rw [memWrite_next s (by omega), andThen_next, memWrite_next _ (by simp), andThen_next]
  have : s.frame.store 0 (sealed body) = (s.frame.store 0 body).store 32 [crc8 body] := by
    rw [sealed, ← Memory.store_store, h, Nat.zero_add]
  rw [filled, this]; rfl

/-- BUILD's three outcomes, and when each occurs (R130, R194). -/
theorem buildError_cases (op : Byte) (s : State) :
    ((op ≠ 0x01#8 ∧ op ≠ 0x02#8) ∧ buildError op s = some (.invalidOpcode, .none)) ∨
    ((op = 0x01#8 ∨ op = 0x02#8) ∧ usesCounter32 s.cfg.kind = true ∧ counterFits s.ports.ctr = false ∧
      buildError op s = some (.fieldOverflow, .nonce)) ∨
    ((op = 0x01#8 ∨ op = 0x02#8) ∧ (usesCounter32 s.cfg.kind = true → counterFits s.ports.ctr = true) ∧
      buildError op s = none) := by
  unfold buildError
  by_cases h1 : op = 0x01#8 <;> by_cases h2 : op = 0x02#8 <;>
    cases h3 : usesCounter32 s.cfg.kind <;> cases h4 : counterFits s.ports.ctr <;> simp_all

/-- An error completion of BUILD: reported, FRAME emptied, `FRAME_VALID` cleared. -/
theorem failBuild_eq (e : ErrKind) (info : ErrField) (s : State) :
    failBuild e info s = .next (emptied (raise e info s)) := discardFrame_eq _

/-- BUILD always completes: one error completion or the frame. -/
theorem execBuild_cases (op : Byte) (s : State) :
    (∃ e info, buildError op s = some (e, info) ∧ execBuild op s = failBuild e info s) ∨
    (buildError op s = none ∧ execBuild op s = completeBuild (layout (buildFields op s)) s) := by
  unfold execBuild
  cases h : buildError op s with
  | none => exact .inr ⟨rfl, rfl⟩
  | some x => exact .inl ⟨x.1, x.2, rfl, rfl⟩

/-- A frame row completes exactly where BUILD produces that frame, and then as BUILD does. -/
theorem buildYielding_eq_next {kind : StrategyKind} {f : BodyFields} {s t : State}
    (h : buildYielding kind f s = .next t) :
    s.cfg.kind = kind ∧ buildError f.op s = none ∧ buildFields f.op s = f ∧ completeBuild (layout f) s = .next t := by
  unfold buildYielding at h
  split at h
  · next hc => exact ⟨hc.1, hc.2.1, hc.2.2, h⟩
  · cases h

/-- A step with a next state: nothing to do, reset, or the execution of a legal word. -/
theorem step_cases {s t : State} (h : step s = .next t) :
    (s.pending = [] ∧ t = s) ∨
    (∃ rest, s.pending = .reset :: rest ∧ t = assertReset { s with pending := rest }) ∨
    (∃ cw p rest i, s.pending = .command cw p :: rest ∧ decodeCommand cw = .ok i ∧
      exec i { s with ports := p, pending := rest } = .next t) := by
  unfold step fetch at h
  match hp : s.pending with
  | [] => rw [hp] at h; exact .inl ⟨rfl, by simpa using h.symm⟩
  | .reset :: rest => rw [hp] at h; exact .inr (.inl ⟨rest, rfl, by simpa using h.symm⟩)
  | .command cw p :: rest =>
    rw [hp] at h
    simp only [runWord] at h
    cases hd : decodeCommand cw with
    | ok i => rw [hd] at h; exact .inr (.inr ⟨cw, p, rest, i, rfl, hd, h⟩)
    | error why => rw [hd] at h; cases h

/-- No operation of the machine writes the configuration but CFG_WR: BUILD's completions keep it. -/
theorem completeBuild_frame {body : List Byte} {s t : State} (hb : body.length = 32)
    (h : completeBuild body s = .next t) :
    t.acc = s.acc ∧ t.cfg = s.cfg ∧ t.ports = s.ports ∧ t.pending = s.pending ∧ frameBytes t.frame = sealed body := by
  rw [completeBuild_eq s hb] at h
  cases h
  exact ⟨rfl, rfl, rfl, rfl, frameBytes_store _ (by simp [sealed, hb])⟩

end Sys2Proof.Machine
end

