-- ==== Sys2Proof/Laws/PerInstr.lean ====
section
/-! SUPPORT. Per instruction: the encoding of a well-formed instruction lies in its own row of the opcode table (R71, R80,
R81). One lemma per constructor of Instr. -/

namespace Sys2Proof.Laws.EncodesToRow

open Sys2Proof.Machine

/-- A command's word has the pattern of the command row that carries its mnemonic; a frame row's bytes are 33, the last one
their checksum. -/
def Statement (i : Instr) : Prop :=
  i.WellFormed → match encode i with
    | .command cw => i.frameKind = none ∧ ∃ r ∈ commandRows, r.mnemonic = i.mnemonic ∧ r.accepts cw = true
    | .frame bytes => i.frameKind ≠ none ∧ bytes.length = 33 ∧ byteAt bytes 32 = crc8 (bytes.take 32)

/-- A row without operand bits outside `data` accepts the command word of its `cmd` and `idx`, whatever the data byte. -/
theorem accepts_data (name : String) (cmd idx : BitVec 4) (d : Byte) :
    (CommandRow.mk name (cmd ++ idx ++ 0x00#8) 0xFF00#16).accepts (commandWord cmd idx d) = true := by
  simp only [CommandRow.accepts, commandWord, beq_iff_eq]
  apply BitVec.eq_of_getLsbD_eq
  intro k hk
  by_cases h8 : k < 8
  · have : (0xFF00#16).getLsbD k = false := by interval_cases k <;> rfl
    simp only [BitVec.getLsbD_and, BitVec.getLsbD_append, h8, this]; simp
  · have : (0xFF00#16).getLsbD k = true := by interval_cases k <;> rfl
    simp only [BitVec.getLsbD_and, BitVec.getLsbD_append, h8, this]; simp

theorem nop : Statement .nop := fun _ => ⟨rfl, _, List.mem_of_getElem (l := commandRows) (i := 0) (h := by decide) rfl, rfl, rfl⟩

theorem crcClr : Statement .crcClr := fun _ => ⟨rfl, _, List.mem_of_getElem (l := commandRows) (i := 1) (h := by decide) rfl, rfl, rfl⟩

theorem crcUpd (d : Byte) : Statement (.crcUpd d) := fun _ =>
  ⟨rfl, _, List.mem_of_getElem (l := commandRows) (i := 2) (h := by decide) rfl, rfl, accepts_data _ _ _ _⟩

theorem crcCmp (d : Byte) : Statement (.crcCmp d) := fun _ =>
  ⟨rfl, _, List.mem_of_getElem (l := commandRows) (i := 3) (h := by decide) rfl, rfl, accepts_data _ _ _ _⟩

theorem cfgWrCtrl (d : Byte) : Statement (.cfgWrCtrl d) := by
  intro h
  refine ⟨rfl, _, List.mem_of_getElem (l := commandRows) (i := 4) (h := by decide) rfl, rfl, ?_⟩
  revert d
  decide

theorem cfgWrMarker0 (d : Byte) : Statement (.cfgWrMarker0 d) := fun _ =>
  ⟨rfl, _, List.mem_of_getElem (l := commandRows) (i := 5) (h := by decide) rfl, rfl, accepts_data _ _ _ _⟩

theorem cfgWrMarker1 (d : Byte) : Statement (.cfgWrMarker1 d) := fun _ =>
  ⟨rfl, _, List.mem_of_getElem (l := commandRows) (i := 6) (h := by decide) rfl, rfl, accepts_data _ _ _ _⟩

theorem cfgWrMarker2 (d : Byte) : Statement (.cfgWrMarker2 d) := fun _ =>
  ⟨rfl, _, List.mem_of_getElem (l := commandRows) (i := 7) (h := by decide) rfl, rfl, accepts_data _ _ _ _⟩

theorem cfgWrMarker3 (d : Byte) : Statement (.cfgWrMarker3 d) := fun _ =>
  ⟨rfl, _, List.mem_of_getElem (l := commandRows) (i := 8) (h := by decide) rfl, rfl, accepts_data _ _ _ _⟩

theorem cfgWrSig0 (d : Byte) : Statement (.cfgWrSig0 d) := fun _ =>
  ⟨rfl, _, List.mem_of_getElem (l := commandRows) (i := 9) (h := by decide) rfl, rfl, accepts_data _ _ _ _⟩

theorem cfgWrSig1 (d : Byte) : Statement (.cfgWrSig1 d) := fun _ =>
  ⟨rfl, _, List.mem_of_getElem (l := commandRows) (i := 10) (h := by decide) rfl, rfl, accepts_data _ _ _ _⟩

theorem build (op : Byte) : Statement (.build op) := fun _ =>
  ⟨rfl, _, List.mem_of_getElem (l := commandRows) (i := 11) (h := by decide) rfl, rfl, accepts_data _ _ _ _⟩

theorem release : Statement .release := fun _ => ⟨rfl, _, List.mem_of_getElem (l := commandRows) (i := 12) (h := by decide) rfl, rfl, rfl⟩

theorem frameCeOpen (n : BitVec 32) :
    Statement (.frameCeOpen n) := fun _ => ⟨nofun, rfl, rfl⟩

theorem frameCeClose (n : BitVec 32) :
    Statement (.frameCeClose n) := fun _ => ⟨nofun, rfl, rfl⟩

theorem frameCwsOpen (n : BitVec 32) (m : Bytes4) (g : Bytes2) (v : BitVec 16) :
    Statement (.frameCwsOpen n m g v) := fun _ => ⟨nofun, rfl, rfl⟩

theorem frameCwsClose (n : BitVec 32) (m : Bytes4) (g : Bytes2) (v : BitVec 16) :
    Statement (.frameCwsClose n m g v) := fun _ => ⟨nofun, rfl, rfl⟩

theorem frameRsiOpen (c : Byte) (t : Bytes3) (hh mm : Byte) :
    Statement (.frameRsiOpen c t hh mm) := fun _ => ⟨nofun, rfl, rfl⟩

theorem frameRsiClose (c : Byte) (t : Bytes3) (hh mm : Byte) :
    Statement (.frameRsiClose c t hh mm) := fun _ => ⟨nofun, rfl, rfl⟩

theorem frameToOpen (n : BitVec 32) (hh mm : Byte) :
    Statement (.frameToOpen n hh mm) := fun _ => ⟨nofun, rfl, rfl⟩

theorem frameToClose (n : BitVec 32) (hh mm : Byte) :
    Statement (.frameToClose n hh mm) := fun _ => ⟨nofun, rfl, rfl⟩

end Sys2Proof.Laws.EncodesToRow
end

