-- ==== Sys2Proof/Machine/Assembly.lean ====
section
/-! DEFINITION. The assembler syntax of 30_encoding.md R83: an instruction as the text of one line. Presentation only
(92_eei_decisions.md D36); nothing of the machine depends on it. -/

namespace Sys2Proof.Machine

/-- A hexadecimal digit. -/
def hexDigit (n : Nat) : Char := "0123456789abcdef".toList.getD n '0'

/-- A byte in C syntax, `0x8a`. -/
def hexByte (b : Byte) : String := "0x" ++ String.ofList [hexDigit (b.toNat / 16), hexDigit (b.toNat % 16)]

/-- The bytes of a frame, two digits each, first byte first (R10). -/
def hexBytes (bytes : List Byte) : String :=
  String.intercalate " " (bytes.map fun b => String.ofList [hexDigit (b.toNat / 16), hexDigit (b.toNat % 16)])

/-- BUILD's operand: `OPEN`, `CLOSE` or a number. -/
def opcodeText (op : Byte) : String :=
  if op = 0x01#8 then "OPEN" else if op = 0x02#8 then "CLOSE" else hexByte op

/-- The operand-port values that follow a BUILD on its line. -/
def portsText (p : Ports) : String :=
  " ; CTR=" ++ toString p.ctr.toNat ++ " UNIX_TIME=" ++ toString p.unixTime.toNat ++ " UTC_HOUR="
    ++ toString p.utcHour.toNat ++ " UTC_MIN=" ++ toString p.utcMin.toNat

/-- The line of an instruction (R83). A frame row is no command: its line is its mnemonic and its 33 bytes. -/
def assemblyLine (p : Ports) (i : Instr) : String :=
  match i with
  | .nop => "NOP"
  | .crcClr => "CRC_CLR"
  | .crcUpd d => "CRC_UPD " ++ hexByte d
  | .crcCmp d => "CRC_CMP " ++ hexByte d
  | .cfgWrCtrl d => "CFG_WR CTRL, " ++ hexByte d
  | .cfgWrMarker0 d => "CFG_WR MARKER0, " ++ hexByte d
  | .cfgWrMarker1 d => "CFG_WR MARKER1, " ++ hexByte d
  | .cfgWrMarker2 d => "CFG_WR MARKER2, " ++ hexByte d
  | .cfgWrMarker3 d => "CFG_WR MARKER3, " ++ hexByte d
  | .cfgWrSig0 d => "CFG_WR SIG0, " ++ hexByte d
  | .cfgWrSig1 d => "CFG_WR SIG1, " ++ hexByte d
  | .build op => "BUILD " ++ opcodeText op ++ portsText p
  | .release => "RELEASE"
  | .frameCeOpen _ => frameText i
  | .frameCeClose _ => frameText i
  | .frameCwsOpen _ _ _ _ => frameText i
  | .frameCwsClose _ _ _ _ => frameText i
  | .frameRsiOpen _ _ _ _ => frameText i
  | .frameRsiClose _ _ _ _ => frameText i
  | .frameToOpen _ _ _ => frameText i
  | .frameToClose _ _ _ => frameText i
where
  /-- A frame row's mnemonic and bytes. -/
  frameText (i : Instr) : String :=
    match encode i with
    | .frame bytes => i.mnemonic ++ " " ++ hexBytes bytes
    | .command _ => i.mnemonic

end Sys2Proof.Machine
end

