-- ==== Sys2Proof/Tests/Slice0.lean ====
section
/-! SUPPORT. Tests: the refusals of WellFormed and Decode, words and frames written out from spec/30_encoding.md and
spec/95_test_vectors.md, one step of each instruction with the result those vectors give, and for every obligation with
hypotheses a witness that meets them. -/

namespace Sys2Proof.Tests

open Sys2Proof.Machine

set_option Elab.async false

/-! ## Helpers -/

/-- The reset machine with a configuration and port levels. -/
def start (c : Cfg) (p : Ports) : State := { State.reset with cfg := c, ports := p }

/-- The reset machine with a `CTRL` byte, a counter and hour and minute. -/
def ofKind (ctrl : Byte) (ctr : BitVec 64) (hh mm : Byte) : State :=
  start { Cfg.reset with ctrl := ctrl } ⟨ctr, 0#64, hh, mm⟩

/-- The configuration of P2 and F19: `01 68 40 3A 68 3A 68`. -/
def cfgS2 : Cfg := ⟨0x01#8, 0x68#8, 0x40#8, 0x3A#8, 0x68#8, 0x3A#8, 0x68#8⟩

/-- The ports of P2 and F19. -/
def portsS2 : Ports := ⟨0x683E3823#64, 1748908067#64, 0x00#8, 0x00#8⟩

/-- The next state satisfies `p`. -/
def nextIs (o : Result) (p : State → Bool) : Bool :=
  match o with
  | .next t => p t
  | .fault _ => false
  | .refused _ => false

/-- The outcome is this refusal. -/
def refusedAs (o : Result) (r : Refusal) : Bool :=
  match o with
  | .next _ => false
  | .fault _ => false
  | .refused r' => r == r'

theorem nextIs_spec {o : Result} {p : State → Bool} (h : nextIs o p = true) : ∃ t, o = .next t ∧ p t = true := by
  cases o with
  | next t => exact ⟨t, rfl, h⟩
  | fault r => cases h
  | refused r => cases h

/-- One step of a word issued to a state with its own port levels. -/
def stepWord (cw : BitVec 16) (s : State) : Result := step (present cw s.ports s)

/-- The frame of S2 and F19. -/
def frameS2 : List Byte :=
  [0x23#8, 0x38#8, 0x3E#8, 0x68#8, 0x23#8, 0x38#8, 0x3E#8, 0x68#8, 0x68#8, 0x40#8, 0x3A#8, 0x68#8, 0x3A#8, 0x68#8, 0x00#8,
   0x00#8, 0x8A#8, 0x67#8, 0x8A#8, 0x67#8, 0x00#8, 0x00#8, 0x00#8, 0x00#8, 0x02#8] ++ zeros 7 ++ [0xA7#8]

/-- The frame of S3 and F40. -/
def frameS3 : List Byte :=
  zeros 16 ++ [0x0E#8, 0x07#8, 0x0E#8, 0x07#8] ++ zeros 4 ++ [0x01#8] ++ zeros 7 ++ [0x20#8]

/-- A frame without session and signature, written out by its nonce, freshness, opcode and checksum bytes. -/
def plainFrame (n0 n1 n2 n3 f0 f1 op k : Byte) : List Byte :=
  [n0, n1, n2, n3, n0, n1, n2, n3] ++ zeros 8 ++ [f0, f1, f0, f1] ++ zeros 4 ++ [op] ++ zeros 7 ++ [k]

/-- F17 (written with its checksum 0F). -/
def frameF17 : List Byte :=
  [0x02#8, 0x00#8, 0x00#8, 0x00#8, 0x02#8, 0x00#8, 0x00#8, 0x00#8, 0xDE#8, 0xAD#8, 0xBE#8, 0xEF#8, 0x12#8, 0x34#8, 0x00#8,
   0x00#8, 0x44#8, 0x44#8, 0x44#8, 0x44#8, 0x00#8, 0x00#8, 0x00#8, 0x00#8, 0x01#8] ++ zeros 7 ++ [0x0F#8]

/-! ## WellFormed and Decode -/

theorem test_wellformed_refuses_reserved_ctrl_bits : ¬ (Instr.cfgWrCtrl 0x08#8).WellFormed := by decide
theorem test_wellformed_refuses_all_ctrl_bits : ¬ (Instr.cfgWrCtrl 0xFF#8).WellFormed := by decide
theorem test_wellformed_takes_largest_ctrl : (Instr.cfgWrCtrl 0x07#8).WellFormed := by decide

theorem test_decode_nop : decodeCommand 0b0000000000000000#16 = .ok .nop := by decide
theorem test_decode_crcClr : decodeCommand 0b0001000000000000#16 = .ok .crcClr := by decide
theorem test_decode_crcUpd : decodeCommand 0b0010000000110001#16 = .ok (.crcUpd 0x31#8) := by decide
theorem test_decode_crcCmp : decodeCommand 0b0011000010100111#16 = .ok (.crcCmp 0xA7#8) := by decide
theorem test_decode_cfgWrCtrl : decodeCommand 0b0100000000000101#16 = .ok (.cfgWrCtrl 0x05#8) := by decide
theorem test_decode_cfgWrMarker0 : decodeCommand 0b0100000101101000#16 = .ok (.cfgWrMarker0 0x68#8) := by decide
theorem test_decode_cfgWrMarker1 : decodeCommand 0b0100001001000000#16 = .ok (.cfgWrMarker1 0x40#8) := by decide
theorem test_decode_cfgWrMarker2 : decodeCommand 0b0100001100111010#16 = .ok (.cfgWrMarker2 0x3A#8) := by decide
theorem test_decode_cfgWrMarker3 : decodeCommand 0b0100010001101000#16 = .ok (.cfgWrMarker3 0x68#8) := by decide
theorem test_decode_cfgWrSig0 : decodeCommand 0b0100010100111010#16 = .ok (.cfgWrSig0 0x3A#8) := by decide
theorem test_decode_cfgWrSig1 : decodeCommand 0b0100011001101000#16 = .ok (.cfgWrSig1 0x68#8) := by decide
theorem test_decode_build : decodeCommand 0b0101000000000010#16 = .ok (.build 0x02#8) := by decide
theorem test_decode_release : decodeCommand 0b0110000000000000#16 = .ok .release := by decide

theorem test_decode_refuses_ctrl_08 : decodeCommand 0x4008#16 = .error .ctrlReservedBits := by decide
theorem test_decode_refuses_idx_7 : decodeCommand 0x4700#16 = .error .noSuchConfigByte := by decide
theorem test_decode_refuses_cmd_7 : decodeCommand 0x7000#16 = .error .noSuchCommand := by decide
theorem test_decode_refuses_nop_data : decodeCommand 0x0001#16 = .error .unusedFieldNotZero := by decide
theorem test_decode_refuses_build_idx : decodeCommand 0x5101#16 = .error .unusedFieldNotZero := by decide

/-- F5. -/
theorem test_decode_frameCeOpen :
    decodeFrame .counterEcho (plainFrame 0x78#8 0x56#8 0x34#8 0x12#8 0x00#8 0x00#8 0x01#8 0xF4#8)
      = .ok (.frameCeOpen 0x12345678#32) := by decide +kernel
/-- F6. -/
theorem test_decode_frameCeClose :
    decodeFrame .counterEcho (plainFrame 0xFF#8 0xFF#8 0xFF#8 0xFF#8 0x00#8 0x00#8 0x02#8 0xDF#8)
      = .ok (.frameCeClose 0xFFFFFFFF#32) := by decide +kernel
/-- F17. -/
theorem test_decode_frameCwsOpen : decodeFrame .counterWithSignature frameF17
    = .ok (.frameCwsOpen 2#32 ⟨0xDE#8, 0xAD#8, 0xBE#8, 0xEF#8⟩ ⟨0x12#8, 0x34#8⟩ 0x4444#16) := by decide +kernel
/-- S2. -/
theorem test_decode_frameCwsClose : decodeFrame .counterWithSignature frameS2
    = .ok (.frameCwsClose 0x683E3823#32 ⟨0x68#8, 0x40#8, 0x3A#8, 0x68#8⟩ ⟨0x3A#8, 0x68#8⟩ 0x8A67#16) := by decide +kernel
/-- F32. -/
theorem test_decode_frameRsiOpen :
    decodeFrame .rollingSessionId (plainFrame 0x00#8 0x01#8 0x02#8 0x03#8 0x01#8 0x02#8 0x01#8 0x67#8)
      = .ok (.frameRsiOpen 0x00#8 ⟨0x01#8, 0x02#8, 0x03#8⟩ 0x01#8 0x02#8) := by decide +kernel
/-- F30. -/
theorem test_decode_frameRsiClose :
    decodeFrame .rollingSessionId (plainFrame 0xFF#8 0xA1#8 0xB2#8 0xC3#8 0x17#8 0x2F#8 0x02#8 0x04#8)
      = .ok (.frameRsiClose 0xFF#8 ⟨0xA1#8, 0xB2#8, 0xC3#8⟩ 0x17#8 0x2F#8) := by decide +kernel
/-- S3. -/
theorem test_decode_frameToOpen : decodeFrame .tickOnly frameS3 = .ok (.frameToOpen 0#32 0x0E#8 0x07#8) := by
  decide +kernel
/-- F41. -/
theorem test_decode_frameToClose :
    decodeFrame .tickOnly (plainFrame 0x04#8 0x03#8 0x02#8 0x01#8 0x17#8 0x3B#8 0x02#8 0xF4#8)
      = .ok (.frameToClose 0x01020304#32 0x17#8 0x3B#8) := by decide +kernel

/-- The source's printed body of S2 (marker at 4 to 7) is no frame: its echo is wrong (90_conflicts.md C2). -/
theorem test_decode_refuses_source_echo :
    decodeFrame .counterWithSignature
      ([0x23#8, 0x38#8, 0x3E#8, 0x68#8, 0x68#8, 0x40#8, 0x3A#8, 0x68#8, 0x23#8, 0x38#8, 0x3E#8, 0x68#8] ++ frameS2.drop 12)
      = .error .echoMismatch := by decide +kernel
/-- V25: one bit of S3 changed. -/
theorem test_decode_refuses_corrupted : decodeFrame .tickOnly (frameS3.set 18 0x0F#8) = .error .freshnessNotMirrored := by
  decide +kernel
theorem test_decode_refuses_checksum : decodeFrame .tickOnly (frameS3.set 32 0x21#8) = .error .checksumMismatch := by
  decide +kernel
theorem test_decode_refuses_short : decodeFrame .tickOnly (zeros 32) = .error .wrongLength := by decide +kernel
/-- S2 holds a marker, which CounterEcho's column fixes to zero. -/
theorem test_decode_refuses_marker_in_ce : decodeFrame .counterEcho frameS2 = .error .fixedByteNotZero := by decide +kernel
/-- Zero bytes are no frame: the opcode byte is neither 01 nor 02 (R76). -/
theorem test_decode_refuses_zero_frame : decodeFrame .counterEcho (zeros 33) = .error .badOpcode := by decide +kernel

/-- F5 as a number with byte 0 lowest, the model's choice (log entry 12). -/
theorem test_table_word_frame : decodeTableWord 264
    0xF400000000000000010000000000000000000000000000000012345678_12345678 = some (.frameCeOpen 0x12345678#32) := by
  decide +kernel
/-- K4: `4008` is reserved. -/
theorem test_table_word_reserved : decodeTableWord 16 0x4008 = none := by decide

/-! ## The checksum function (95_test_vectors.md, 2.1) -/

/-- V3, V5, V6. -/
theorem test_crc8_single : crc8 [0x01#8] = 0x5E#8 ∧ crc8 [0x80#8] = 0x8C#8 ∧ crc8 [0xFF#8] = 0x35#8 := by
  decide +kernel
/-- V9: "123456789". -/
theorem test_crc8_check :
    crc8 [0x31#8, 0x32#8, 0x33#8, 0x34#8, 0x35#8, 0x36#8, 0x37#8, 0x38#8, 0x39#8] = 0xA1#8 := by decide +kernel
/-- V12, V13: order matters, a leading zero does not. -/
theorem test_crc8_order : crc8 [0x00#8, 0x01#8] = 0x5E#8 ∧ crc8 [0x01#8, 0x00#8] = 0xC4#8 := by
  decide +kernel
/-- V21: S2 with one bit changed. -/
theorem test_crc8_corrupted : crc8 ((frameS2.set 16 0x8B#8).take 32) = 0x2B#8 := by decide +kernel
/-- The digest inputs at the bucket edges of 95_test_vectors.md 2.2. -/
theorem test_dec : dec (299 / 300) = [0x30#8] ∧ dec (3000 / 300) = [0x31#8, 0x30#8] ∧
    dec (1748908067 / 300) = [0x35#8, 0x38#8, 0x32#8, 0x39#8, 0x36#8, 0x39#8, 0x33#8] := by decide +kernel

/-! ## One step of each instruction -/

theorem test_reset_frame_wf : State.reset.frame.wf = true := by decide
theorem test_idle_step : step State.reset = .next State.reset := rfl

theorem test_step_nop : nextIs (stepWord 0x0000#16 (ofKind 0x05#8 7#64 0x01#8 0x02#8))
    (· == ofKind 0x05#8 7#64 0x01#8 0x02#8) = true := by decide +kernel
theorem test_step_crcClr : nextIs (stepWord 0x1000#16 { State.reset with acc := 0xA7#8 })
    (· == State.reset) = true := by decide +kernel
/-- `ED, 8A → E6`. -/
theorem test_step_crcUpd : nextIs (stepWord 0x208A#16 { State.reset with acc := 0xED#8 })
    (· == { State.reset with acc := 0xE6#8 }) = true := by decide +kernel
/-- V7, as the first instruction after reset. -/
theorem test_first_crcUpd : nextIs (step (State.reset.withFetchWord 16 0x2031)) (·.acc == 0xE0#8) = true := by
  decide +kernel
/-- `ACC = A7`, `CRC_CMP A7`; `ACC` is not consumed. -/
theorem test_step_crcCmp_equal : nextIs (stepWord 0x30A7#16 { State.reset with acc := 0xA7#8, status := 0x08#8 })
    (fun t => t.status == 0x0C#8 && t.acc == 0xA7#8) = true := by decide +kernel
/-- `CRC_CMP A6` after a match. -/
theorem test_step_crcCmp_unequal : nextIs (stepWord 0x30A6#16 { State.reset with acc := 0xA7#8, status := 0x0C#8 })
    (·.status == 0x0B#8) = true := by decide +kernel
/-- K1. -/
theorem test_step_cfgWrCtrl : nextIs (stepWord 0x4005#16 State.reset)
    (fun t => t.cfg == ⟨0x05#8, 0x00#8, 0x00#8, 0x00#8, 0x00#8, 0x00#8, 0x00#8⟩ && t.cfg.kind == .counterWithSignature
      && t.cfg.bucketWidth == 60) = true := by decide +kernel
/-- K4. -/
theorem test_step_refuses_ctrl_08 : refusedAs (stepWord 0x4008#16 State.reset) (.reservedWord .ctrlReservedBits) = true := by
  decide +kernel
/-- K2, in one theorem: each word writes its own byte. -/
theorem test_step_cfgWr_bytes :
    nextIs (stepWord 0x4168#16 State.reset) (·.cfg == { Cfg.reset with marker0 := 0x68#8 }) = true ∧
    nextIs (stepWord 0x4240#16 State.reset) (·.cfg == { Cfg.reset with marker1 := 0x40#8 }) = true ∧
    nextIs (stepWord 0x433A#16 State.reset) (·.cfg == { Cfg.reset with marker2 := 0x3A#8 }) = true ∧
    nextIs (stepWord 0x4468#16 State.reset) (·.cfg == { Cfg.reset with marker3 := 0x68#8 }) = true ∧
    nextIs (stepWord 0x453A#16 State.reset) (·.cfg == { Cfg.reset with sig0 := 0x3A#8 }) = true ∧
    nextIs (stepWord 0x4668#16 State.reset) (·.cfg == { Cfg.reset with sig1 := 0x68#8 }) = true := by decide +kernel
/-- E5: the opcode is checked first. -/
theorem test_step_build_invalid : nextIs (stepWord 0x5003#16 (ofKind 0x00#8 0x100000000#64 0x00#8 0x00#8))
    (fun t => t.status == 0x01#8 && frameBytes t.frame == zeros 33) = true := by decide +kernel
/-- E9: `MATCH` survives an overflowing BUILD. -/
theorem test_step_build_overflow :
    nextIs (stepWord 0x5001#16 { ofKind 0x03#8 0x100000000#64 0x00#8 0x00#8 with status := 0x04#8 })
      (·.status == 0x16#8) = true := by decide +kernel
/-- The end of P3: a held frame released. -/
theorem test_step_release :
    nextIs (stepWord 0x6000#16 { State.reset with frame := Memory.store [] 0 frameS3, status := 0x08#8 })
      (fun t => t.status == 0x00#8 && t.frame == []) = true := by decide +kernel
theorem test_step_refuses_reserved : refusedAs (stepWord 0x7000#16 State.reset) (.reservedWord .noSuchCommand) = true := by
  decide +kernel

/-- F5: the BUILD of the row, and as the first instruction after reset. -/
theorem test_exec_frameCeOpen : nextIs (exec (.frameCeOpen 0x12345678#32) (ofKind 0x00#8 0x12345678#64 0x00#8 0x00#8))
    (fun t => frameBytes t.frame == plainFrame 0x78#8 0x56#8 0x34#8 0x12#8 0x00#8 0x00#8 0x01#8 0xF4#8
      && t.status == 0x08#8) = true := by decide +kernel
theorem test_first_frame_row : nextIs (step (State.reset.withFetchWord 264
    0xF400000000000000010000000000000000000000000000000012345678_12345678))
    (fun t => frameBytes t.frame == plainFrame 0x78#8 0x56#8 0x34#8 0x12#8 0x00#8 0x00#8 0x01#8 0xF4#8) = true := by
  decide +kernel
/-- F6: the largest legal counter. -/
theorem test_exec_frameCeClose : nextIs (exec (.frameCeClose 0xFFFFFFFF#32) (ofKind 0x00#8 0xFFFFFFFF#64 0x00#8 0x00#8))
    (fun t => frameBytes t.frame == plainFrame 0xFF#8 0xFF#8 0xFF#8 0xFF#8 0x00#8 0x00#8 0x02#8 0xDF#8) = true := by
  decide +kernel
/-- F17: the 60-second bucket of the largest time. -/
theorem test_exec_frameCwsOpen :
    nextIs (exec (.frameCwsOpen 2#32 ⟨0xDE#8, 0xAD#8, 0xBE#8, 0xEF#8⟩ ⟨0x12#8, 0x34#8⟩ 0x4444#16)
      (start ⟨0x05#8, 0xDE#8, 0xAD#8, 0xBE#8, 0xEF#8, 0x12#8, 0x34#8⟩ ⟨2#64, 0xFFFFFFFFFFFFFFFF#64, 0x00#8, 0x00#8⟩))
      (frameBytes ·.frame == frameF17) = true := by decide +kernel
/-- S2, F19. -/
theorem test_exec_frameCwsClose :
    nextIs (exec (.frameCwsClose 0x683E3823#32 ⟨0x68#8, 0x40#8, 0x3A#8, 0x68#8⟩ ⟨0x3A#8, 0x68#8⟩ 0x8A67#16)
      (start cfgS2 portsS2)) (frameBytes ·.frame == frameS2) = true := by decide +kernel
/-- F42: hour and minute out of range, packed as they are. -/
theorem test_exec_frameToOpen : nextIs (exec (.frameToOpen 5#32 25#8 61#8) (ofKind 0x03#8 5#64 25#8 61#8))
    (frameBytes ·.frame == plainFrame 0x05#8 0x00#8 0x00#8 0x00#8 0x19#8 0x3D#8 0x01#8 0x9B#8) = true := by decide +kernel
/-- F41. -/
theorem test_exec_frameToClose : nextIs (exec (.frameToClose 0x01020304#32 23#8 59#8) (ofKind 0x03#8 0x01020304#64 23#8 59#8))
    (frameBytes ·.frame == plainFrame 0x04#8 0x03#8 0x02#8 0x01#8 0x17#8 0x3B#8 0x02#8 0xF4#8) = true := by decide +kernel

/-- A RollingSessionId row at a state whose digest gives its tag. -/
theorem rsi_row {c : Byte} {t : Bytes3} {hh mm op : Byte} {s : State} (hk : s.cfg.kind = .rollingSessionId)
    (ho : op = 0x01#8 ∨ op = 0x02#8) (hc : counterByte s.ports.ctr = c) (ht : sessionTag s.ports.unixTime = t)
    (hh' : s.ports.utcHour = hh) (hm : s.ports.utcMin = mm) :
    buildYielding .rollingSessionId (fieldsRsi c t hh mm op) s
      = .next (filled (layout (fieldsRsi c t hh mm op)) s) := by
  have he : buildError op s = none := by rcases ho with rfl | rfl <;> simp [buildError, hk, usesCounter32]
  have hf : buildFields op s = fieldsRsi c t hh mm op := by
    simp [buildFields, fieldsRsi, hk, deriveNonce, deriveFreshness, selectSession, selectSignature, hc, ht, hh', hm]
  rw [buildYielding, if_pos ⟨hk, he, hf⟩, completeBuild_eq s (layout_length _)]

/-- The state of F30. -/
def stateF30 : State := start { Cfg.reset with ctrl := 0x02#8 } ⟨0x1FF#64, 1748908067#64, 23#8, 47#8⟩

/-- The state of F32. -/
def stateF32 : State := start { Cfg.reset with ctrl := 0x02#8 } ⟨0x100000000#64, 300#64, 1#8, 2#8⟩

/-- F30, for every digest that gives the supposed bytes. -/
theorem test_exec_frameRsiClose (rest : List Byte)
    (h : Config.digest [0x35#8, 0x38#8, 0x32#8, 0x39#8, 0x36#8, 0x39#8, 0x33#8] = ⟨0xA1#8, 0xB2#8, 0xC3#8, rest⟩) :
    ∃ t, exec (.frameRsiClose 0xFF#8 ⟨0xA1#8, 0xB2#8, 0xC3#8⟩ 23#8 47#8) stateF30 = .next t ∧
      frameBytes t.frame = plainFrame 0xFF#8 0xA1#8 0xB2#8 0xC3#8 0x17#8 0x2F#8 0x02#8 0x04#8 := by
  have ht : sessionTag stateF30.ports.unixTime = ⟨0xA1#8, 0xB2#8, 0xC3#8⟩ := by
    rw [sessionTag, show dec (bucket 300 stateF30.ports.unixTime)
      = [0x35#8, 0x38#8, 0x32#8, 0x39#8, 0x36#8, 0x39#8, 0x33#8] by decide +kernel, h]
  exact ⟨_, rsi_row (by decide) (.inr rfl) (by decide) ht (by decide) (by decide), by
    rw [filled_frame, frameBytes_store _ (by simp)]; decide +kernel⟩

/-- F32: a counter of 2^32 does not overflow under kind 2 (E6). -/
theorem test_exec_frameRsiOpen (rest : List Byte) (h : Config.digest [0x31#8] = ⟨0x01#8, 0x02#8, 0x03#8, rest⟩) :
    ∃ t, exec (.frameRsiOpen 0x00#8 ⟨0x01#8, 0x02#8, 0x03#8⟩ 1#8 2#8) stateF32 = .next t ∧
      frameBytes t.frame = plainFrame 0x00#8 0x01#8 0x02#8 0x03#8 0x01#8 0x02#8 0x01#8 0x67#8 := by
  have ht : sessionTag stateF32.ports.unixTime = ⟨0x01#8, 0x02#8, 0x03#8⟩ := by
    rw [sessionTag, show dec (bucket 300 stateF32.ports.unixTime) = [0x31#8] by decide +kernel, h]
  exact ⟨_, rsi_row (by decide) (.inl rfl) (by decide) ht (by decide) (by decide), by
    rw [filled_frame, frameBytes_store _ (by simp)]; decide +kernel⟩

/-! ## Witnesses: for each obligation with hypotheses, a state and operands that meet them -/

/-- Some port levels. -/
def ports1 : Ports := ⟨1#64, 60#64, 0x0E#8, 0x07#8⟩

/-- A state that holds the S3 frame. -/
def holding : State :=
  { ofKind 0x03#8 0#64 0x0E#8 0x07#8 with frame := Memory.store [] 0 frameS3, status := 0x08#8 }

/-- The BUILD of S3 completes, with its frame held. -/
theorem build_S3 : ∃ t, exec (.build 0x01#8) (ofKind 0x03#8 0#64 0x0E#8 0x07#8) = .next t ∧
    statusFrameValid t.status = true := nextIs_spec (by decide +kernel)

theorem witness_ResetEventRestoresEveryRegister : ∃ (s : State) (rest : List Input), s.pending = .reset :: rest :=
  ⟨{ holding with acc := 0xA7#8, pending := [.reset, .command 0x0000#16 ports1] }, _, rfl⟩

theorem witness_StepRunsTheDecodedInstruction : ∃ (s : State) (cw : BitVec 16) (p : Ports) (rest : List Input) (i : Instr),
    s.pending = .command cw p :: rest ∧ i.WellFormed ∧ decodeCommand cw = .ok i :=
  ⟨present 0x4007#16 ports1 State.reset, _, _, _, .cfgWrCtrl 0x07#8, rfl, by decide, by decide⟩

theorem witness_StepWithoutCommandChangesNothing : ∃ s : State, s.pending = [] := ⟨holding, rfl⟩

/-- Each row of R88's table at its boundary values. -/
theorem witness_EveryReservedWordIsRefused :
    ∀ w ∈ [(7, 0, 0), (15, 15, 255), (0, 1, 0), (0, 0, 1), (1, 15, 0), (6, 0, 255), (2, 1, 0), (3, 15, 255), (5, 1, 1),
        (4, 7, 0), (4, 15, 255), (4, 0, 8), (4, 0, 255)],
      ∃ (s : State) (cw : BitVec 16) (p : Ports) (rest : List Input), s.pending = .command cw p :: rest ∧
        cw.toNat = 4096 * w.1 + 256 * w.2.1 + w.2.2 ∧ w.1 < 16 ∧ w.2.1 < 16 ∧ w.2.2 < 256 ∧
        (7 ≤ w.1 ∨ ((w.1 = 0 ∨ w.1 = 1 ∨ w.1 = 6) ∧ (w.2.1 ≠ 0 ∨ w.2.2 ≠ 0)) ∨
          ((w.1 = 2 ∨ w.1 = 3 ∨ w.1 = 5) ∧ w.2.1 ≠ 0) ∨ (w.1 = 4 ∧ 7 ≤ w.2.1) ∨
          (w.1 = 4 ∧ w.2.1 = 0 ∧ w.2.2 / 8 ≠ 0)) := by
  intro w hw
  have h : (BitVec.ofNat 16 (4096 * w.1 + 256 * w.2.1 + w.2.2)).toNat = 4096 * w.1 + 256 * w.2.1 + w.2.2 := by
    revert w; decide
  exact ⟨present (BitVec.ofNat 16 (4096 * w.1 + 256 * w.2.1 + w.2.2)) ports1 State.reset, _, _, _, rfl, h, by
    revert w; decide⟩

theorem witness_WordIsLegalExactlyWhenOneRowMatches :
    (∃ cw i, decodeCommand cw = .ok i) ∧ ∃ cw, ∃ r ∈ commandRows, r.accepts cw = true :=
  ⟨⟨0x4007#16, .cfgWrCtrl 0x07#8, by decide⟩, 0x4007#16, ⟨"CFG_WR.CTRL", 0x4000#16, 0xFFF8#16⟩, by decide, by decide⟩

theorem witness_EveryLegalCommandCompletes :
    (∃ (s : State) (cw : BitVec 16) (p : Ports) (rest : List Input), s.pending = .command cw p :: rest ∧ LegalWord cw) ∧
    ∃ l : List Input, l.length = 2 ∧ LegalStream l := by
  refine ⟨⟨present 0x50FF#16 ports1 holding, _, _, _, rfl, .build 0xFF#8, by decide⟩,
    [.reset, .command 0x5001#16 ports1], rfl, fun cw p h => ?_⟩
  simp only [List.mem_cons, Input.command.injEq, List.not_mem_nil, or_false, reduceCtorEq, false_or] at h
  exact ⟨.build 0x01#8, by rw [h.1]; decide⟩

/-- A command, CTRL's largest byte, and a frame of each strategy. -/
theorem witness_DecodeInvertsEncode :
    ∀ x ∈ [(Instr.nop, StrategyKind.counterEcho), (.cfgWrCtrl 0x07#8, .tickOnly), (.frameCeOpen 0xFFFFFFFF#32, .counterEcho),
        (.frameCwsClose 1#32 ⟨0x01#8, 0x02#8, 0x03#8, 0x04#8⟩ ⟨0x05#8, 0x06#8⟩ 0x8A67#16, .counterWithSignature),
        (.frameRsiOpen 0xFF#8 ⟨0x01#8, 0x02#8, 0x03#8⟩ 0xFF#8 0xFF#8, .rollingSessionId),
        (.frameToClose 0#32 0x0E#8 0x07#8, .tickOnly)],
      x.1.WellFormed ∧ (x.1.frameKind = none ∨ x.1.frameKind = some x.2) := by decide

theorem witness_EncodeInvertsDecode :
    decode .tickOnly (.frame frameS3) = .ok (.frameToOpen 0#32 0x0E#8 0x07#8) ∧
    decode .tickOnly (.command 0x4007#16) = .ok (.cfgWrCtrl 0x07#8) := by decide +kernel

/-- Both clauses of CRC_CMP, and the operand at the ends of its range. -/
theorem witness_CrcCompareReportsTheMatch : ∃ s : State, s.acc = 0xFF#8 ∧ s.acc ≠ 0x00#8 :=
  ⟨{ State.reset with acc := 0xFF#8 }, rfl, by decide⟩

theorem witness_AccumulatorIsTheFoldOfTheStream : ∃ t, steps 4 (State.reset.given
    [.command 0x1000#16 ports1, .command 0x20FF#16 ports1, .command 0x5001#16 ports1, .reset]) = .next t := by
  obtain ⟨t, h, _⟩ := nextIs_spec (o := steps 4 (State.reset.given
    [.command 0x1000#16 ports1, .command 0x20FF#16 ports1, .command 0x5001#16 ports1, .reset])) (p := fun _ => true)
    (by decide +kernel)
  exact ⟨t, h⟩

theorem witness_EveryBuiltFrameVerifies : ∃ (op : Byte) (s t : State), exec (.build op) s = .next t ∧
    statusFrameValid t.status = true := ⟨_, _, build_S3⟩

theorem witness_ChecksumIsLinear : frameS2.length = frameS3.length ∧ crc8 frameS2 = 0x00#8 := by decide +kernel

/-- The first and the last byte changed. -/
theorem witness_OneByteChangeFailsVerification : frameS2.length = 33 ∧ crc8 (frameS2.take 32) = byteAt frameS2 32 ∧
    (0x00#8 ≠ byteAt frameS2 0) ∧ (0xA6#8 ≠ byteAt frameS2 32) := by decide +kernel

theorem witness_OddBitChangeIsDetected :
    ([0x01#8, 0x03#8].map fun b : Byte => ((List.range 8).filter fun j => b.getLsbD j).length).sum % 2 = 1 := by decide

/-- Bursts at both ends of the frame, and the 9-bit bursts 256 + 1, the polynomial 0x119, and 511. -/
theorem witness_ShortBurstIsDetected :
    (∀ x ∈ [(1, 0), (255, 0), (128, 256), (255, 256)], 0 < x.1 ∧ x.1 < 256 ∧ x.1 * 2 ^ x.2 < 2 ^ 264) ∧
    (∀ x ∈ [(257, 0), (0x119, 0), (0x119, 255), (511, 255)], 256 ≤ x.1 ∧ x.1 < 512 ∧ x.1 % 2 = 1 ∧ x.2 ≤ 255) := by
  decide +kernel

/-- V23's distance, the other undetected one, and pairs at the ends of the frame. -/
theorem witness_TwoBitChangeIsMissedOnlyAt127Or254 :
    ∀ x ∈ [(0, 1), (0, 127), (136, 263), (9, 263), (0, 263)], x.1 < x.2 ∧ x.2 < 264 := by decide

theorem witness_ConfigWriteStoresItsByte : (0x00#8).toNat ≤ 7 ∧ (0x07#8).toNat ≤ 7 := by decide

/-- Each clause, at both sides of the bound. -/
theorem witness_ControlByteSelectsKindAndWidth :
    (∀ x ∈ [(0x00#8, 0), (0x01#8, 1), (0x02#8, 2), (0x03#8, 3), (0x04#8, 0), (0x07#8, 3)],
      x.1.toNat ≤ 7 ∧ x.1.toNat % 4 = x.2) ∧ 7 < (0x08#8).toNat ∧ 7 < (0xFF#8).toNat := by decide

theorem witness_DecIsTheDecimalNumeral : 0x31#8 ∈ dec 10 ∧ (10 : Nat) ≠ 0 := by decide +kernel

/-- The two ends of a bucket. -/
theorem witness_SameBucketGivesTheSameSessionFrame : ∃ (s : State) (t1 t2 : BitVec 64),
    s.cfg.kind = .rollingSessionId ∧ t1 ≠ t2 ∧ t1.toNat / 300 = t2.toNat / 300 :=
  ⟨ofKind 0x02#8 0#64 0x00#8 0x00#8, 300#64, 599#64, by decide, by decide, by decide⟩

theorem witness_BuildRejectsOtherOpcodes : ∀ op ∈ [0x00#8, 0x03#8, 0xFF#8], op ≠ 0x01#8 ∧ op ≠ 0x02#8 := by decide

/-- The smallest overflowing counter under each of the three strategies; the largest that fits; the largest of all under
RollingSessionId. -/
theorem witness_BuildRejectsWideCounters :
    (∀ k ∈ [0x00#8, 0x01#8, 0x03#8], ∃ s : State,
      s.cfg.ctrl = k ∧ s.cfg.kind ≠ .rollingSessionId ∧ 0xFFFFFFFF < s.ports.ctr.toNat) ∧
    (∃ s : State, s.cfg.kind = .counterEcho ∧ s.ports.ctr.toNat = 0xFFFFFFFF) ∧
    ∃ s : State, s.cfg.kind = .rollingSessionId ∧ s.ports.ctr.toNat = 0xFFFFFFFFFFFFFFFF :=
  ⟨fun k hk => ⟨ofKind k 0x100000000#64 0x00#8 0x00#8, rfl, by revert k; decide, by revert k; decide⟩,
    ⟨ofKind 0x00#8 0xFFFFFFFF#64 0x00#8 0x00#8, by decide, by decide⟩,
    ofKind 0x02#8 0xFFFFFFFFFFFFFFFF#64 0x00#8 0x00#8, by decide, by decide⟩

/-- The largest legal counter. -/
theorem witness_BuildCounterEchoFrame : ∃ (s : State) (c : Nat), s.cfg.kind = .counterEcho ∧ c = s.ports.ctr.toNat ∧
    c = 0xFFFFFFFF := ⟨ofKind 0x00#8 0xFFFFFFFF#64 0x00#8 0x00#8, _, by decide, rfl, by decide⟩

theorem witness_BuildCounterWithSignatureFrame : ∃ (s : State) (c v m0 m1 m2 m3 g0 g1 : Nat),
    s.cfg.kind = .counterWithSignature ∧ c = s.ports.ctr.toNat ∧ c ≤ 0xFFFFFFFF ∧
    v = (if s.cfg.ctrl.getLsbD 2 then s.ports.unixTime.toNat / 60 else s.ports.unixTime.toNat / 30) % 65536 ∧
    hostCfg 1 s = some (natByte m0 0) ∧ hostCfg 2 s = some (natByte m1 0) ∧ hostCfg 3 s = some (natByte m2 0) ∧
    hostCfg 4 s = some (natByte m3 0) ∧ hostCfg 5 s = some (natByte g0 0) ∧ hostCfg 6 s = some (natByte g1 0) :=
  ⟨start cfgS2 portsS2, 0x683E3823, 0x8A67, 0x68, 0x40, 0x3A, 0x68, 0x3A, 0x68, by decide +kernel⟩

theorem witness_BuildRollingSessionIdFrame : ∃ (s : State) (c : Nat) (d : DigestOutput), s.cfg.kind = .rollingSessionId ∧
    c = s.ports.ctr.toNat % 256 ∧ Config.digest (dec (s.ports.unixTime.toNat / 300)) = d :=
  ⟨ofKind 0x02#8 0xFFFFFFFFFFFFFFFF#64 0x00#8 0x00#8, _, _, by decide, rfl, rfl⟩

theorem witness_BuildTickOnlyFrame : ∃ (s : State) (c : Nat), s.cfg.kind = .tickOnly ∧ c = s.ports.ctr.toNat ∧
    c = 0xFFFFFFFF := ⟨ofKind 0x07#8 0xFFFFFFFF#64 0xFF#8 0xFF#8, _, by decide, rfl, by decide⟩

theorem witness_EveryBuiltFrameHasTheInvariants : ∃ (op : Byte) (s t : State), exec (.build op) s = .next t ∧
    statusFrameValid t.status = true := ⟨_, _, build_S3⟩

/-- A strategy with the 32-bit counter, and CounterWithSignature for the bucket value. -/
theorem witness_FrameIntegersReadBack :
    (∃ s t : State, s.cfg.kind ≠ .rollingSessionId ∧ exec (.build 0x02#8) s = .next t ∧
      statusFrameValid t.status = true) ∧
    ∃ s t : State, s.cfg.kind = .counterWithSignature ∧ exec (.build 0x02#8) s = .next t ∧
      statusFrameValid t.status = true := by
  have h : ∃ t, exec (.build 0x02#8) (start cfgS2 portsS2) = .next t ∧ statusFrameValid t.status = true :=
    nextIs_spec (by decide +kernel)
  obtain ⟨t, h1, h2⟩ := h
  exact ⟨⟨_, t, by decide, h1, h2⟩, _, t, by decide, h1, h2⟩

/-- Other port values that each strategy does not read. -/
theorem witness_UnusedPortsDoNotMatter :
    (∀ x ∈ [(0x00#8, (⟨5#64, 9#64, 0x08#8, 0x09#8⟩ : Ports)), (0x01#8, ⟨5#64, 0#64, 0x08#8, 0x09#8⟩),
        (0x02#8, ⟨5#64, 0#64, 0x01#8, 0x02#8⟩), (0x03#8, ⟨5#64, 9#64, 0x01#8, 0x02#8⟩)],
      ∃ s : State, s = ofKind x.1 5#64 0x01#8 0x02#8 ∧ x.2.ctr = s.ports.ctr ∧
        (s.cfg.kind = .counterWithSignature ∨ s.cfg.kind = .rollingSessionId → x.2.unixTime = s.ports.unixTime) ∧
        (s.cfg.kind = .rollingSessionId ∨ s.cfg.kind = .tickOnly →
          x.2.utcHour = s.ports.utcHour ∧ x.2.utcMin = s.ports.utcMin)) ∧
    (Instr.crcUpd 0xFF#8).WellFormed ∧ ¬ IsBuild (.crcUpd 0xFF#8) := by
  refine ⟨fun x hx => ⟨_, rfl, ?_⟩, by decide, ?_⟩
  · revert x; decide
  · rintro (⟨op, h⟩ | h)
    · cases h
    · exact h rfl

/-- The invariant at reset, which holds no frame. -/
theorem coreInv_reset : CoreInv State.reset :=
  ⟨by decide, by decide, fun _ => by decide, fun h => absurd h (by decide), by decide, fun h => absurd h (by decide)⟩

/-- The invariant at a state that holds a frame. -/
theorem coreInv_holding : CoreInv holding := by
  refine ⟨by decide +kernel, by decide +kernel, fun h => absurd h (by decide), fun _ => ?_, by decide, fun h => absurd h (by decide)⟩
  exact ⟨by decide +kernel, by decide +kernel, by decide +kernel, by decide +kernel, by decide +kernel, by decide +kernel⟩

theorem witness_ReleaseDiscardsTheFrame : CoreInv State.reset ∧ statusFrameValid State.reset.status = false :=
  ⟨coreInv_reset, by decide⟩

theorem witness_CounterEchoRowsComplete : ∃ (n : BitVec 32) (s : State), s.cfg.kind = .counterEcho ∧
    s.ports.ctr.toNat = n.toNat := ⟨0xFFFFFFFF#32, ofKind 0x00#8 0xFFFFFFFF#64 0x00#8 0x00#8, by decide, by decide⟩

theorem witness_CounterWithSignatureRowsComplete :
    ∃ (n : BitVec 32) (m : Bytes4) (g : Bytes2) (v : BitVec 16) (s : State), s.cfg.kind = .counterWithSignature ∧
      s.ports.ctr.toNat = n.toNat ∧ s.cfg.marker = m ∧ s.cfg.sig = g ∧
      s.ports.unixTime.toNat / s.cfg.bucketWidth % 65536 = v.toNat :=
  ⟨0x683E3823#32, _, _, 0x8A67#16, start cfgS2 portsS2, by decide, by decide, rfl, rfl, by decide +kernel⟩

theorem witness_RollingSessionIdRowsComplete : ∃ (c : Byte) (t : Bytes3) (hh mm : Byte) (s : State),
    s.cfg.kind = .rollingSessionId ∧ s.ports.ctr.toNat % 256 = c.toNat ∧ sessionTag s.ports.unixTime = t ∧
    s.ports.utcHour = hh ∧ s.ports.utcMin = mm :=
  ⟨0xFF#8, _, _, _, stateF30, by decide, by decide, rfl, rfl, rfl⟩

theorem witness_TickOnlyRowsComplete : ∃ (n : BitVec 32) (hh mm : Byte) (s : State), s.cfg.kind = .tickOnly ∧
    s.ports.ctr.toNat = n.toNat ∧ s.ports.utcHour = hh ∧ s.ports.utcMin = mm :=
  ⟨5#32, _, _, ofKind 0x03#8 5#64 25#8 61#8, by decide, by decide, rfl, rfl⟩

/-- The frame of counter 1 (F3), and states for each clause: another strategy; the row's own strategy with another counter,
whose BUILD leaves other bytes and the row is refused; its own strategy and counter, where it completes. -/
theorem witness_FrameRowElsewhereIsRefused :
    ((Instr.frameCeOpen 1#32).frameKind = some .counterEcho ∧
      encode (.frameCeOpen 1#32) = .frame (plainFrame 0x01#8 0x00#8 0x00#8 0x00#8 0x00#8 0x00#8 0x01#8 0x31#8)) ∧
    (ofKind 0x03#8 1#64 0#8 0#8).cfg.kind ≠ .counterEcho ∧
    ((ofKind 0x00#8 2#64 0#8 0#8).cfg.kind = .counterEcho ∧
      refusedAs (exec (.frameCeOpen 1#32) (ofKind 0x00#8 2#64 0#8 0#8)) .frameNotProduced = true) ∧
    (ofKind 0x00#8 1#64 0#8 0#8).cfg.kind = .counterEcho ∧
      nextIs (exec (.frameCeOpen 1#32) (ofKind 0x00#8 1#64 0#8 0#8)) (fun _ => true) = true := by decide +kernel

theorem witness_EverySuccessfulBuildIsAFrameRow : ∃ (op : Byte) (s t : State), exec (.build op) s = .next t ∧
    statusFrameValid t.status = true := ⟨_, _, build_S3⟩

/-- Each clause has a step that makes its change. -/
theorem witness_EachRegisterHasItsOnlyWriters :
    (∃ s t, exec (.crcUpd 0x01#8) s = .next t ∧ t.acc ≠ s.acc) ∧
    (∃ s t, exec (.build 0x01#8) s = .next t ∧ (t.frame ≠ s.frame ∧ statusFrameValid t.status ≠ statusFrameValid s.status)) ∧
    (∃ s t, exec (.cfgWrSig1 0x01#8) s = .next t ∧ t.cfg ≠ s.cfg) ∧
    (∃ s t, exec (.crcCmp 0x00#8) s = .next t ∧ statusMatch t.status ≠ statusMatch s.status) ∧
    (∃ s t, exec (.build 0x01#8) s = .next t ∧
      (statusErr t.status ≠ statusErr s.status ∧ statusErrField t.status ≠ statusErrField s.status)) := by
  refine ⟨⟨State.reset, _, rfl, by decide⟩, ?_, ⟨State.reset, _, rfl, by decide⟩, ⟨State.reset, _, rfl, by decide⟩, ?_⟩
  · obtain ⟨t, h, hp⟩ := nextIs_spec (o := exec (.build 0x01#8) (ofKind 0x03#8 0#64 0x0E#8 0x07#8))
      (p := fun t => decide (t.frame ≠ [] ∧ statusFrameValid t.status ≠ false)) (by decide +kernel)
    exact ⟨_, t, h, of_decide_eq_true hp⟩
  · obtain ⟨t, h, hp⟩ := nextIs_spec (o := exec (.build 0x01#8) (ofKind 0x03#8 0x100000000#64 0x0E#8 0x07#8))
      (p := fun t => decide (statusErr t.status ≠ 0#2 ∧ statusErrField t.status ≠ 0#4)) (by decide +kernel)
    exact ⟨_, t, h, of_decide_eq_true hp⟩

/-- H6: CFG_WR and CRC_UPD while the S3 frame is held. -/
theorem witness_HeldFrameIsFrozen : ∃ (l : List Input) (t : State),
    (∀ x ∈ l, ∃ cw p i, x = .command cw p ∧ decodeCommand cw = .ok i ∧ i ≠ .release ∧ ∀ op, i ≠ .build op) ∧
    l.length = 2 ∧ steps l.length (holding.given l) = .next t := by
  obtain ⟨t, h, _⟩ := nextIs_spec (o := steps 2 (holding.given
    [.command 0x4000#16 ports1, .command 0x20FF#16 ports1])) (p := fun _ => true) (by decide +kernel)
  refine ⟨[.command 0x4000#16 ports1, .command 0x20FF#16 ports1], t, fun x hx => ?_, rfl, h⟩
  simp only [List.mem_cons, List.not_mem_nil, or_false] at hx
  rcases hx with rfl | rfl
  · exact ⟨_, _, .cfgWrCtrl 0x00#8, rfl, by decide, nofun, nofun⟩
  · exact ⟨_, _, .crcUpd 0xFF#8, rfl, by decide, nofun, nofun⟩

/-- From a state that holds a frame, by an instruction and by a step. -/
theorem witness_InvariantIsKept : CoreInv holding ∧ (∃ t, exec .release holding = .next t) ∧
    ∃ s t, CoreInv s ∧ step s = .next t ∧ s.pending ≠ [] := by
  obtain ⟨t, h, _⟩ := nextIs_spec (o := step (present 0x6000#16 ports1 State.reset)) (p := fun _ => true)
    (by decide +kernel)
  exact ⟨coreInv_holding, ⟨_, discardFrame_eq _⟩, present 0x6000#16 ports1 State.reset, t,
    ⟨coreInv_reset.1, coreInv_reset.2, coreInv_reset.3, coreInv_reset.4, coreInv_reset.5, coreInv_reset.6⟩, h, by decide⟩

/-- A run from reset to a held frame (P3), and one that ends without one. -/
theorem witness_ReachableStateHoldsAFrameOrZeros :
    (∃ t, steps 2 (State.reset.given [.command 0x4003#16 ports1, .command 0x5001#16 ports1]) = .next t ∧
      statusFrameValid t.status = true) ∧
    ∃ t, steps 2 (State.reset.given [.command 0x4003#16 ports1, .command 0x5003#16 ports1]) = .next t ∧
      (!statusFrameValid t.status) = true :=
  ⟨nextIs_spec (by decide +kernel), nextIs_spec (by decide +kernel)⟩

/-- SEND of a legal and of an illegal opcode. -/
theorem witness_SendHandsOverOneFrameAtMost :
    (∃ t, steps 1 (State.reset.given (sendBuild ports1 0x01#8)) = .next t ∧ decide (statusErr t.status = 0#2) = true) ∧
    ∃ t, steps 1 (State.reset.given (sendBuild ports1 0x03#8)) = .next t ∧ decide (statusErr t.status ≠ 0#2) = true :=
  ⟨nextIs_spec (by decide +kernel), nextIs_spec (by decide +kernel)⟩

/-- Writes at both ends of the buffer, the empty write, and writes past the end. -/
theorem witness_FrameWriteChangesExactlyItsBytes :
    (∀ x ∈ [(0, zeros 33), (32, [0xFF#8]), (33, [])], x.1 + x.2.length ≤ 33) ∧
    (∀ x ∈ [(32, zeros 2), (33, [0xFF#8]), (34, [])], 33 < x.1 + x.2.length) := by decide

theorem witness_PlacedFrameRowIsProducedByTheNextStep :
    ∀ x ∈ [(Instr.frameCeOpen 0xFFFFFFFF#32, StrategyKind.counterEcho),
        (.frameCwsOpen 0#32 ⟨0x01#8, 0x02#8, 0x03#8, 0x04#8⟩ ⟨0x05#8, 0x06#8⟩ 0xFFFF#16, .counterWithSignature),
        (.frameToClose 0#32 0xFF#8 0xFF#8, .tickOnly)],
      x.1.frameKind = some x.2 ∧ x.2 ≠ .rollingSessionId := by decide

end Sys2Proof.Tests
end

namespace Sys2Proof.Machine

/-! ## The step at the head of the host's stream -/

/-- A command at the head of the stream is taken from it and its port levels are driven (R6, R28). -/
theorem fetch_of_pending_command {s : State} {cw : BitVec 16} {p : Ports} {rest : List Input}
    (hp : s.pending = .command cw p :: rest) : fetch s = .command cw { s with ports := p, pending := rest } := by
  rw [fetch, hp]

theorem step_of_fetch_command {s s' : State} {cw : BitVec 16} (hf : fetch s = .command cw s') :
    step s = runWord cw s' := by
  rw [step, hf]

theorem runWord_of_decode {cw : BitVec 16} {i : Instr} (s : State) (hd : decodeCommand cw = .ok i) :
    runWord cw s = exec i s := by
  rw [runWord, hd]

/-- Settles O3. The three stages of a step in their order: fetch, decode, exec. -/
theorem stepRunsTheDecodedInstruction : Obligations.StepRunsTheDecodedInstruction := by
  intro s cw p rest i hp _ hd
  rw [step_of_fetch_command (fetch_of_pending_command hp), runWord_of_decode _ hd]

/-! ## Writes to the FRAME space -/

/-- A byte that a write stores reads back. -/
theorem Memory.peek_store_of_lt (m : Memory) (off : Nat) {bs : List Byte} {k : Nat} (hk : k < bs.length) :
    (m.store off bs).peek (off + k) = byteAt bs k := by
  rw [Memory.peek_store, if_pos (by omega), Nat.add_sub_cancel_left, byteAt]

/-- A byte outside a write reads as before it. -/
theorem Memory.peek_store_of_outside (m : Memory) {off a : Nat} {bs : List Byte} (ha : a < off ∨ off + bs.length ≤ a) :
    (m.store off bs).peek a = m.peek a := by
  rw [Memory.peek_store, if_neg (by omega)]

/-- Settles O59, by the two answers of `memWrite`. -/
theorem frameWriteChangesExactlyItsBytes : Obligations.FrameWriteChangesExactlyItsBytes := by
  intro off bytes s
  obtain ⟨hin, hw⟩ | ⟨hout, hw⟩ := memWrite_cases off bytes s
  · refine ⟨fun _ => ⟨_, hw, ?stored, ?others, Memory.wf_store hin, rfl⟩, fun hout => by omega⟩
    case stored => exact fun k hk => Memory.peek_store_of_lt s.frame off hk
    case others => exact fun a ha => Memory.peek_store_of_outside s.frame ha
  · exact ⟨fun hin => by omega, fun _ => ⟨_, hw⟩⟩

/-! ## The decimal numeral

`dec n` for a positive `n` is Mathlib's `Nat.digits 10 n`, which lists the least significant digit first, reversed and
with each digit written as its ASCII byte. What is known of `Nat.digits` then gives each part of O31. -/

theorem decDigit_toNat (n : Nat) : (decDigit n).toNat = 0x30 + n % 10 := by
  rw [decDigit, BitVec.toNat_ofNat]
  omega

@[simp] theorem decDigit_mod (n : Nat) : decDigit (n % 10) = decDigit n := by
  rw [decDigit, decDigit, Nat.mod_mod]

@[simp] theorem dec_zero : dec 0 = [0x30#8] := rfl

/-- With enough fuel the digits before `tail` are all the digits of a positive number. -/
theorem decDigits_eq_digits {fuel n : Nat} (tail : List Byte) (hn : n ≠ 0) (hf : n ≤ fuel) :
    decDigits fuel n tail = ((Nat.digits 10 n).map decDigit).reverse ++ tail := by
  induction fuel generalizing n tail with
  | zero => omega
  | succ fuel ih =>
    have hdigits : Nat.digits 10 n = n % 10 :: Nat.digits 10 (n / 10) := Nat.digits_def' (by omega) (by omega)
    rw [decDigits]
    split
    · next hlast => simp [hdigits, hlast]
    · next hmore =>
      rw [ih _ hmore (by omega)]
      simp [hdigits]

theorem dec_eq_digits {n : Nat} (hn : n ≠ 0) : dec n = ((Nat.digits 10 n).map decDigit).reverse :=
  (decDigits_eq_digits [] hn (by omega)).trans (List.append_nil _)

/-- Every byte of a numeral is the ASCII byte of some digit. -/
theorem exists_decDigit_of_mem_dec {n : Nat} {b : Byte} (hb : b ∈ dec n) : ∃ d, decDigit d = b := by
  by_cases hn : n = 0
  · rw [hn, dec_zero, List.mem_singleton] at hb
    exact ⟨0, hb.symm⟩
  · rw [dec_eq_digits hn, List.mem_reverse, List.mem_map] at hb
    obtain ⟨d, -, hd⟩ := hb
    exact ⟨d, hd⟩

/-- Read from its least significant digit on, a list of decimal digits has the same value as its ASCII bytes. -/
theorem foldr_decDigit_eq_ofDigits (ds : List Nat) (hds : ∀ d ∈ ds, d < 10) :
    (ds.map decDigit).foldr (fun b v => 10 * v + (b.toNat - 0x30)) 0 = Nat.ofDigits 10 ds := by
  induction ds with
  | nil => rfl
  | cons d ds ih =>
    have hd : d < 10 := hds d List.mem_cons_self
    rw [List.map_cons, List.foldr_cons, ih fun e he => hds e (List.mem_cons_of_mem d he), Nat.ofDigits_cons,
      decDigit_toNat]
    omega

theorem dec_value (n : Nat) : (dec n).foldl (fun v b => 10 * v + (b.toNat - 0x30)) 0 = n := by
  by_cases hn : n = 0
  · subst hn; rfl
  · rw [dec_eq_digits hn, List.foldl_reverse, foldr_decDigit_eq_ofDigits _ fun d => Nat.digits_lt_base (by omega),
      Nat.ofDigits_digits]

/-- The first byte of a positive number's numeral is its most significant digit, which is not 0. -/
theorem dec_head_ne_zero {n : Nat} (hn : n ≠ 0) : (dec n).head? ≠ some 0x30#8 := by
  have hne : Nat.digits 10 n ≠ [] := Nat.digits_ne_nil_iff_ne_zero.2 hn
  have htop : (Nat.digits 10 n).getLast hne ≠ 0 := Nat.getLast_digit_ne_zero 10 hn
  have hlt : (Nat.digits 10 n).getLast hne < 10 := Nat.digits_lt_base (by omega) (List.getLast_mem hne)
  rw [dec_eq_digits hn, List.head?_reverse, List.getLast?_map, List.getLast?_eq_some_getLast hne]
  intro h
  have hbyte := congrArg BitVec.toNat (Option.some.inj h)
  rw [decDigit_toNat] at hbyte
  simp only [BitVec.toNat_ofNat] at hbyte
  omega

/-- Settles O31, through `Nat.digits`. -/
theorem decIsTheDecimalNumeral : Obligations.DecIsTheDecimalNumeral := by
  refine ⟨fun n b hb => ?_, dec_value, fun n => dec_head_ne_zero, dec_zero⟩
  obtain ⟨d, rfl⟩ := exists_decDigit_of_mem_dec hb
  rw [decDigit_toNat]
  omega

end Sys2Proof.Machine

namespace Sys2Proof.Machine

/-! ## What BUILD leaves -/

/-- The state after BUILD: FRAME emptied and the error reported, or the frame of the resolved fields (R130). -/
def afterBuild (op : Byte) (s : State) : State :=
  match buildError op s with
  | some (e, info) => emptied (raise e info s)
  | none => filled (layout (buildFields op s)) s

theorem afterBuild_of_error {op : Byte} {s : State} {e : ErrKind} {info : ErrField}
    (h : buildError op s = some (e, info)) : afterBuild op s = emptied (raise e info s) := by
  rw [afterBuild, h]

theorem afterBuild_of_ok {op : Byte} {s : State} (h : buildError op s = none) :
    afterBuild op s = filled (layout (buildFields op s)) s := by
  rw [afterBuild, h]

/-- BUILD completes in every state (R130, R198). -/
theorem execBuild_eq (op : Byte) (s : State) : execBuild op s = .next (afterBuild op s) := by
  obtain ⟨e, info, herr, hexec⟩ | ⟨hok, hexec⟩ := execBuild_cases op s
  · rw [hexec, failBuild_eq, afterBuild_of_error herr]
  · rw [hexec, completeBuild_eq s (layout_length _), afterBuild_of_ok hok]

/-- A frame row that completes has the effect of the BUILD of its opcode (log entry 5). -/
theorem afterBuild_of_buildYielding {kind : StrategyKind} {f : BodyFields} {s t : State}
    (h : buildYielding kind f s = .next t) : t = afterBuild f.op s := by
  obtain ⟨-, hok, hfields, hdone⟩ := buildYielding_eq_next h
  rw [completeBuild_eq s (layout_length f)] at hdone
  rw [afterBuild_of_ok hok, hfields]
  exact (Host.Outcome.next.inj hdone).symm

/-- BUILD either discards the frame and reports one of its two errors, or fills FRAME under a legal opcode (R139,
R140). -/
theorem afterBuild_cases (op : Byte) (s : State) :
    afterBuild op s = emptied (raise .invalidOpcode .none s) ∨
    afterBuild op s = emptied (raise .fieldOverflow .nonce s) ∨
    ((op = 0x01#8 ∨ op = 0x02#8) ∧ afterBuild op s = filled (layout (buildFields op s)) s) := by
  obtain ⟨-, herr⟩ | ⟨-, -, -, herr⟩ | ⟨hop, -, hok⟩ := buildError_cases op s
  · exact .inl (afterBuild_of_error herr)
  · exact .inr (.inl (afterBuild_of_error herr))
  · exact .inr (.inr ⟨hop, afterBuild_of_ok hok⟩)

/-- BUILD writes FRAME and STATUS at most (R131). -/
theorem afterBuild_eq_with (op : Byte) (s : State) :
    afterBuild op s = { s with frame := (afterBuild op s).frame, status := (afterBuild op s).status } := by
  obtain h | h | ⟨-, h⟩ := afterBuild_cases op s <;> rw [h] <;> rfl

@[simp] theorem afterBuild_acc (op : Byte) (s : State) : (afterBuild op s).acc = s.acc := by
  rw [afterBuild_eq_with]

@[simp] theorem afterBuild_cfg (op : Byte) (s : State) : (afterBuild op s).cfg = s.cfg := by
  rw [afterBuild_eq_with]

@[simp] theorem afterBuild_ports (op : Byte) (s : State) : (afterBuild op s).ports = s.ports := by
  rw [afterBuild_eq_with]

@[simp] theorem afterBuild_pending (op : Byte) (s : State) : (afterBuild op s).pending = s.pending := by
  rw [afterBuild_eq_with]

/-- Of STATUS it leaves `MATCH` (R131). -/
@[simp] theorem statusMatch_afterBuild (op : Byte) (s : State) :
    statusMatch (afterBuild op s).status = statusMatch s.status := by
  obtain h | h | ⟨-, h⟩ := afterBuild_cases op s <;> simp [h]

/-! ## What an instruction that completes has done -/

/-- Everything an instruction can have done when it completes: `Completion i s t` allows the next state `t` after `i` at
`s`. All seven forms of CFG_WR are one case, and so are BUILD and its frame rows. -/
inductive Completion : Instr → State → State → Prop
  | nop (s : State) : Completion .nop s s
  | crcClr (s : State) : Completion .crcClr s (writeAcc 0x00#8 s)
  | crcUpd (d : Byte) (s : State) : Completion (.crcUpd d) s (writeAcc (crc8Step s.acc d) s)
  | crcCmpEqual (d : Byte) (s : State) : Completion (.crcCmp d) s (writeMatch true (reportOk s))
  | crcCmpUnequal (d : Byte) (s : State) :
      Completion (.crcCmp d) s (writeMatch false (raise .checksumMismatch .none s))
  | cfgWr {i : Instr} (k : Nat) (d : Byte) (s : State) (hi : IsCfgWr i) (hctrl : k = 0 → ctrlLegal d = true) :
      Completion i s (writeCfg k d s)
  | build {i : Instr} (op : Byte) (s : State) (hi : IsBuild i) : Completion i s (afterBuild op s)
  | release (s : State) : Completion .release s (emptied s)

/-- A frame row that completes is a BUILD. -/
theorem completion_of_buildYielding {i : Instr} {kind : StrategyKind} {f : BodyFields} {s t : State}
    (hi : i.frameKind ≠ none) (h : buildYielding kind f s = .next t) : Completion i s t := by
  rw [afterBuild_of_buildYielding h]
  exact .build f.op s (.inr hi)

/-- The inversion of `exec`, one arm per instruction. -/
theorem completion_of_exec {i : Instr} {s t : State} (h : exec i s = .next t) : Completion i s t := by
  cases i with
  | nop => cases h; exact .nop s
  | crcClr => cases h; exact .crcClr s
  | crcUpd d => cases h; exact .crcUpd d s
  | crcCmp d =>
    simp only [exec, execCrcCmp] at h
    split at h
    · cases h; exact .crcCmpEqual d s
    · cases h; exact .crcCmpUnequal d s
  | cfgWrCtrl d =>
    simp only [exec, execCfgWrCtrl] at h
    split at h
    · next hd => cases h; exact .cfgWr 0 d s ⟨d, by simp⟩ fun _ => hd
    · cases h
  | cfgWrMarker0 d => cases h; exact .cfgWr 1 d s ⟨d, by simp⟩ nofun
  | cfgWrMarker1 d => cases h; exact .cfgWr 2 d s ⟨d, by simp⟩ nofun
  | cfgWrMarker2 d => cases h; exact .cfgWr 3 d s ⟨d, by simp⟩ nofun
  | cfgWrMarker3 d => cases h; exact .cfgWr 4 d s ⟨d, by simp⟩ nofun
  | cfgWrSig0 d => cases h; exact .cfgWr 5 d s ⟨d, by simp⟩ nofun
  | cfgWrSig1 d => cases h; exact .cfgWr 6 d s ⟨d, by simp⟩ nofun
  | build op =>
    cases (execBuild_eq op s).symm.trans h
    exact .build op s (.inl ⟨op, rfl⟩)
  | release =>
    cases (discardFrame_eq s).symm.trans h
    exact .release s
  | frameCeOpen n => exact completion_of_buildYielding nofun h
  | frameCeClose n => exact completion_of_buildYielding nofun h
  | frameCwsOpen n m g v => exact completion_of_buildYielding nofun h
  | frameCwsClose n m g v => exact completion_of_buildYielding nofun h
  | frameRsiOpen c tag hh mm => exact completion_of_buildYielding nofun h
  | frameRsiClose c tag hh mm => exact completion_of_buildYielding nofun h
  | frameToOpen n hh mm => exact completion_of_buildYielding nofun h
  | frameToClose n hh mm => exact completion_of_buildYielding nofun h

/-! ## The frames BUILD makes -/

/-- A mirrored freshness and a legal opcode make the frame invariants of R72. -/
theorem frameOk_sealed_layout {f : BodyFields} (hop : f.op = 0x01#8 ∨ f.op = 0x02#8)
    (hmirror : f.fresh.b2 = f.fresh.b0 ∧ f.fresh.b3 = f.fresh.b1) : FrameOk (sealed (layout f)) where
  length := rfl
  checksum := rfl
  echo k hk := by interval_cases k <;> rfl
  zero k hk := by simpa using List.all_eq_true.1 (sealed_reserved f) k hk
  opcode := hop
  mirrored := hmirror

/-- Every strategy's freshness is mirrored (R166, R170, R171). -/
theorem deriveFreshness_mirrored (kind : StrategyKind) (c : Cfg) (p : Ports) :
    (deriveFreshness kind c p).b2 = (deriveFreshness kind c p).b0 ∧
      (deriveFreshness kind c p).b3 = (deriveFreshness kind c p).b1 := by
  cases kind <;> exact ⟨rfl, rfl⟩

theorem frameOk_buildFields {op : Byte} (s : State) (hop : op = 0x01#8 ∨ op = 0x02#8) :
    FrameOk (sealed (layout (buildFields op s))) :=
  frameOk_sealed_layout hop (deriveFreshness_mirrored _ _ _)

/-! ## The invariant, operation by operation -/

theorem Cfg.write_ctrl (c : Cfg) (k : Nat) (d : Byte) : (c.write k d).ctrl = if k = 0 then d else c.ctrl := by
  unfold Cfg.write
  split <;> simp_all

/-- The invariant of a state that differs only in registers it does not speak of. -/
theorem coreInv_of_eq {s t : State} (h : CoreInv s) (hframe : t.frame = s.frame) (hcfg : t.cfg = s.cfg)
    (hstatus : t.status = s.status) : CoreInv t where
  frameWf := hframe ▸ h.frameWf
  ctrl := hcfg ▸ h.ctrl
  released := hframe ▸ hstatus ▸ h.released
  held := hframe ▸ hstatus ▸ h.held
  errField := hstatus ▸ h.errField
  mismatch := hstatus ▸ h.mismatch

/-- A report changes `ERR`, `ERR_FIELD` and `MATCH` alone; the invariant asks only that the three agree. -/
theorem coreInv_of_report {s t : State} (h : CoreInv s) (hframe : t.frame = s.frame) (hcfg : t.cfg = s.cfg)
    (hvalid : statusFrameValid t.status = statusFrameValid s.status)
    (hfield : statusErrField t.status = if statusErr t.status = 2#2 then 1#4 else 0#4)
    (hmismatch : statusErr t.status = 3#2 → statusMatch t.status = false) : CoreInv t where
  frameWf := hframe ▸ h.frameWf
  ctrl := hcfg ▸ h.ctrl
  released := hframe ▸ hvalid ▸ h.released
  held := hframe ▸ hvalid ▸ h.held
  errField := hfield
  mismatch := hmismatch

theorem coreInv_crcCmpEqual {s : State} (h : CoreInv s) : CoreInv (writeMatch true (reportOk s)) :=
  coreInv_of_report h rfl rfl (by simp) (by simp) (by simp)

theorem coreInv_crcCmpUnequal {s : State} (h : CoreInv s) :
    CoreInv (writeMatch false (raise .checksumMismatch .none s)) :=
  coreInv_of_report h rfl rfl (by simp) (by simp [errCode, errFieldCode]) (by simp)

theorem coreInv_raise_invalidOpcode {s : State} (h : CoreInv s) : CoreInv (raise .invalidOpcode .none s) :=
  coreInv_of_report h rfl rfl (by simp) (by simp [errCode, errFieldCode]) (by simp [errCode])

theorem coreInv_raise_fieldOverflow {s : State} (h : CoreInv s) : CoreInv (raise .fieldOverflow .nonce s) :=
  coreInv_of_report h rfl rfl (by simp) (by simp [errCode, errFieldCode]) (by simp [errCode])

theorem coreInv_writeCfg {s : State} {k : Nat} {d : Byte} (h : CoreInv s) (hctrl : k = 0 → ctrlLegal d = true) :
    CoreInv (writeCfg k d s) where
  frameWf := h.frameWf
  ctrl := by
    rw [writeCfg_cfg, Cfg.write_ctrl]
    split
    · next hk => exact hctrl hk
    · exact h.ctrl
  released := h.released
  held := h.held
  errField := h.errField
  mismatch := h.mismatch

theorem coreInv_emptied {s : State} (h : CoreInv s) : CoreInv (emptied s) where
  frameWf := Memory.wf_store (by simp) h.frameWf
  ctrl := h.ctrl
  released _ := frameBytes_store _ (by simp)
  held hv := by simp at hv
  errField := by simpa using h.errField
  mismatch := by simpa using h.mismatch

theorem coreInv_filled {s : State} {f : BodyFields} (h : CoreInv s) (hf : FrameOk (sealed (layout f))) :
    CoreInv (filled (layout f) s) where
  frameWf := Memory.wf_store (by simp) h.frameWf
  ctrl := h.ctrl
  released hv := by simp at hv
  held _ := by rwa [filled_frame, frameBytes_store _ (sealed_length f)]
  errField := by simp
  mismatch := by simp

theorem coreInv_afterBuild {s : State} (op : Byte) (h : CoreInv s) : CoreInv (afterBuild op s) := by
  obtain hinvalid | hoverflow | ⟨hop, hfilled⟩ := afterBuild_cases op s
  · rw [hinvalid]; exact coreInv_emptied (coreInv_raise_invalidOpcode h)
  · rw [hoverflow]; exact coreInv_emptied (coreInv_raise_fieldOverflow h)
  · rw [hfilled]; exact coreInv_filled h (frameOk_buildFields s hop)

/-- Reset gives the invariant in any state, since every register then has its reset value (R34). -/
theorem coreInv_assertReset (s : State) : CoreInv (assertReset s) where
  frameWf := rfl
  ctrl := rfl
  released _ := rfl
  held hv := absurd (assertReset_status s ▸ hv) (by decide)
  errField := by rw [assertReset_status]; decide
  mismatch he := absurd (assertReset_status s ▸ he) (by decide)

/-! ## The invariant along a run -/

theorem coreInv_of_completion {i : Instr} {s t : State} (h : CoreInv s) (hc : Completion i s t) : CoreInv t := by
  cases hc with
  | nop => exact h
  | crcClr => exact coreInv_of_eq h rfl rfl rfl
  | crcUpd d => exact coreInv_of_eq h rfl rfl rfl
  | crcCmpEqual d => exact coreInv_crcCmpEqual h
  | crcCmpUnequal d => exact coreInv_crcCmpUnequal h
  | cfgWr k d _ hi hctrl => exact coreInv_writeCfg h hctrl
  | build op _ hi => exact coreInv_afterBuild op h
  | release => exact coreInv_emptied h

theorem coreInv_of_exec {i : Instr} {s t : State} (h : CoreInv s) (he : exec i s = .next t) : CoreInv t :=
  coreInv_of_completion h (completion_of_exec he)

theorem coreInv_of_step {s t : State} (h : CoreInv s) (hs : step s = .next t) : CoreInv t := by
  obtain ⟨-, rfl⟩ | ⟨rest, -, rfl⟩ | ⟨cw, p, rest, i, -, -, he⟩ := step_cases hs
  · exact h
  · exact coreInv_assertReset _
  · have hdriven : CoreInv { s with ports := p, pending := rest } := coreInv_of_eq h rfl rfl rfl
    exact coreInv_of_exec hdriven he

theorem coreInv_of_steps {k : Nat} {s t : State} (h : CoreInv s) (hs : steps k s = .next t) : CoreInv t := by
  induction k generalizing s with
  | zero => cases hs; exact h
  | succ k ih =>
    obtain ⟨u, hu, ht⟩ := andThen_eq_next hs
    exact ih (coreInv_of_step h hu) ht

theorem coreInv_given {s : State} (h : CoreInv s) (l : List Input) : CoreInv (s.given l) :=
  coreInv_of_eq h rfl rfl rfl

theorem coreInv_reset : CoreInv State.reset := coreInv_assertReset State.reset

/-- Settles O54. An instruction keeps the invariant by the inversion of `exec`, a step by that of `step`. -/
theorem invariantIsKept : Obligations.InvariantIsKept :=
  ⟨fun _ _ _ => coreInv_of_exec, fun _ _ => coreInv_of_step⟩

/-- Settles O55. -/
theorem invariantHoldsAtReset : Obligations.InvariantHoldsAtReset :=
  ⟨coreInv_reset, coreInv_given coreInv_reset⟩

/-- Settles O56, from the invariant by induction on the number of steps. -/
theorem reachableStateHoldsAFrameOrZeros : Obligations.ReachableStateHoldsAFrameOrZeros := by
  intro l k t ht
  have hinv : CoreInv t := coreInv_of_steps (coreInv_given coreInv_reset l) ht
  exact ⟨hinv.released, hinv.held⟩

/-! ## The registers after reset -/

/-- Settles O1. FRAME is the only register read through a bound, so every other clause computes. -/
theorem resetLeavesEveryRegisterZero : Obligations.ResetLeavesEveryRegisterZero := by
  refine ⟨rfl, fun i hi => ?frame, fun i hi => ?cfg, rfl, rfl, rfl, rfl, rfl, rfl, rfl, rfl, rfl⟩
  case frame => exact if_pos (Nat.lt_succ_of_le hi)
  case cfg => interval_cases i <;> rfl

/-! ## Which registers an instruction may write (R26) -/

section writers

variable {i : Instr} {s t : State}

theorem acc_of_completion (hc : Completion i s t) : t.acc = s.acc ∨ i = .crcClr ∨ ∃ d, i = .crcUpd d := by
  cases hc with
  | crcClr => exact .inr (.inl rfl)
  | crcUpd d => exact .inr (.inr ⟨d, rfl⟩)
  | build op => exact .inl (afterBuild_acc op s)
  | nop | crcCmpEqual | crcCmpUnequal | cfgWr | release => exact .inl rfl

/-- FRAME and `FRAME_VALID` have the same writers. -/
theorem frame_of_completion (hc : Completion i s t) :
    (t.frame = s.frame ∧ statusFrameValid t.status = statusFrameValid s.status) ∨ i = .release ∨ IsBuild i := by
  cases hc with
  | build op _ hi => exact .inr (.inr hi)
  | release => exact .inr (.inl rfl)
  | nop | crcClr | crcUpd | crcCmpEqual | crcCmpUnequal | cfgWr => simp

theorem cfg_of_completion (hc : Completion i s t) : t.cfg = s.cfg ∨ IsCfgWr i := by
  cases hc with
  | cfgWr _ _ _ hi => exact .inr hi
  | build op => exact .inl (afterBuild_cfg op s)
  | nop | crcClr | crcUpd | crcCmpEqual | crcCmpUnequal | release => exact .inl rfl

theorem match_of_completion (hc : Completion i s t) :
    statusMatch t.status = statusMatch s.status ∨ ∃ d, i = .crcCmp d := by
  cases hc with
  | crcCmpEqual d | crcCmpUnequal d => exact .inr ⟨d, rfl⟩
  | nop | crcClr | crcUpd | cfgWr | build | release => simp

/-- `ERR` and `ERR_FIELD` are written together, and so have the same writers. -/
theorem err_of_completion (hc : Completion i s t) :
    (statusErr t.status = statusErr s.status ∧ statusErrField t.status = statusErrField s.status) ∨
      (∃ d, i = .crcCmp d) ∨ IsBuild i := by
  cases hc with
  | crcCmpEqual d | crcCmpUnequal d => exact .inr (.inl ⟨d, rfl⟩)
  | build _ _ hi => exact .inr (.inr hi)
  | nop | crcClr | crcUpd | cfgWr | release => simp

/-- The inputs are written by no instruction. -/
theorem inputs_of_completion (hc : Completion i s t) : t.ports = s.ports ∧ t.pending = s.pending := by
  cases hc with
  | build op => exact ⟨afterBuild_ports op s, afterBuild_pending op s⟩
  | nop | crcClr | crcUpd | crcCmpEqual | crcCmpUnequal | cfgWr | release => exact ⟨rfl, rfl⟩

end writers

/-- Settles O52, register by register. -/
theorem eachRegisterHasItsOnlyWriters : Obligations.EachRegisterHasItsOnlyWriters := by
  intro i s t he
  have hc := completion_of_exec he
  exact ⟨(acc_of_completion hc).resolve_left,
    fun hne => (frame_of_completion hc).resolve_left fun h => hne h.1,
    (cfg_of_completion hc).resolve_left,
    fun hne => (frame_of_completion hc).resolve_left fun h => hne h.2,
    (match_of_completion hc).resolve_left,
    fun hne => (err_of_completion hc).resolve_left fun h => hne h.1,
    fun hne => (err_of_completion hc).resolve_left fun h => hne h.2,
    inputs_of_completion hc⟩

/-! ## The control byte -/

theorem execCfgWrCtrl_of_legal {d : Byte} (s : State) (hd : d.toNat ≤ 7) :
    exec (.cfgWrCtrl d) s = .next (writeCfg 0 d s) :=
  if_pos (decide_eq_true hd)

theorem execCfgWrCtrl_of_reserved {d : Byte} (s : State) (hd : 7 < d.toNat) :
    exec (.cfgWrCtrl d) s = .refused (.reservedWord .ctrlReservedBits) :=
  if_neg (by simpa [ctrlLegal] using hd)

/-- `KIND` is the `CTRL` byte modulo 4 (R23). -/
theorem Cfg.kind_of_ctrl_mod (c : Cfg) :
    (c.ctrl.toNat % 4 = 0 → c.kind = .counterEcho) ∧ (c.ctrl.toNat % 4 = 1 → c.kind = .counterWithSignature) ∧
    (c.ctrl.toNat % 4 = 2 → c.kind = .rollingSessionId) ∧ (c.ctrl.toNat % 4 = 3 → c.kind = .tickOnly) := by
  have hcode : (c.ctrl.extractLsb' 0 2).toNat = c.ctrl.toNat % 4 := BitVec.extractLsb'_toNat 0 2 c.ctrl
  refine ⟨?_, ?_, ?_, ?_⟩ <;> intro hmod <;> simp only [Cfg.kind, kindOfCode, hcode, hmod]

/-- In a legal byte bit 2 is the highest, so it is set exactly from 4 on. -/
theorem getLsbD_two_of_legal {d : Byte} (hd : d.toNat ≤ 7) : d.getLsbD 2 = decide (4 ≤ d.toNat) := by
  revert d; decide

theorem Cfg.bucketWidth_of_legal {c : Cfg} (hc : c.ctrl.toNat ≤ 7) :
    c.bucketWidth = if 4 ≤ c.ctrl.toNat then 60 else 30 := by
  simp only [Cfg.bucketWidth, Cfg.bsel, getLsbD_two_of_legal hc, decide_eq_true_eq]

/-- Settles O30, by the fields of the byte that a legal CFG_WR 0 leaves in `CTRL`. -/
theorem controlByteSelectsKindAndWidth : Obligations.ControlByteSelectsKindAndWidth := by
  refine fun d s => ⟨fun hd => ⟨_, execCfgWrCtrl_of_legal s hd, ?_⟩, execCfgWrCtrl_of_reserved s⟩
  obtain ⟨hce, hcws, hrsi, hto⟩ := Cfg.kind_of_ctrl_mod (writeCfg 0 d s).cfg
  exact ⟨hce, hcws, hrsi, hto, Cfg.bucketWidth_of_legal hd⟩

/-! ## Ports a command does not use (R208) -/

/-- BUILD's checks read `KIND` and `CTR` only. -/
theorem buildError_congr_ports (op : Byte) {s : State} {q : Ports} (hctr : q.ctr = s.ports.ctr) :
    buildError op { s with ports := q } = buildError op s := by
  simp only [buildError, hctr]

/-- The nonce takes `CTR`, and `UNIX_TIME` under RollingSessionId (R164). -/
theorem deriveNonce_congr {kind : StrategyKind} {p q : Ports} (hctr : q.ctr = p.ctr)
    (htime : kind = .rollingSessionId → q.unixTime = p.unixTime) : deriveNonce kind q = deriveNonce kind p := by
  cases kind with
  | counterEcho | counterWithSignature | tickOnly => simp only [deriveNonce, hctr]
  | rollingSessionId => simp only [deriveNonce, hctr, htime rfl]

/-- The freshness takes no port under CounterEcho, `UNIX_TIME` under CounterWithSignature, hour and minute under
the other two (R167). -/
theorem deriveFreshness_congr {kind : StrategyKind} (c : Cfg) {p q : Ports}
    (htime : kind = .counterWithSignature → q.unixTime = p.unixTime)
    (hclock : kind = .rollingSessionId ∨ kind = .tickOnly → q.utcHour = p.utcHour ∧ q.utcMin = p.utcMin) :
    deriveFreshness kind c q = deriveFreshness kind c p := by
  cases kind with
  | counterEcho => rfl
  | counterWithSignature => simp only [deriveFreshness, htime rfl]
  | rollingSessionId | tickOnly =>
    obtain ⟨hhour, hmin⟩ := hclock (by simp)
    simp only [deriveFreshness, hhour, hmin]

theorem buildFields_congr_ports (op : Byte) {s : State} {q : Ports} (hctr : q.ctr = s.ports.ctr)
    (htime : s.cfg.kind = .counterWithSignature ∨ s.cfg.kind = .rollingSessionId → q.unixTime = s.ports.unixTime)
    (hclock : s.cfg.kind = .rollingSessionId ∨ s.cfg.kind = .tickOnly →
      q.utcHour = s.ports.utcHour ∧ q.utcMin = s.ports.utcMin) :
    buildFields op { s with ports := q } = buildFields op s := by
  have hnonce := deriveNonce_congr hctr fun hk => htime (.inr hk)
  have hfresh := deriveFreshness_congr s.cfg (fun hk => htime (.inl hk)) hclock
  simp only [buildFields, hnonce, hfresh]

/-- Both ends of BUILD carry the ports through. -/
theorem afterBuild_congr_ports (op : Byte) {s : State} {q : Ports}
    (herror : buildError op { s with ports := q } = buildError op s)
    (hfields : buildFields op { s with ports := q } = buildFields op s) :
    afterBuild op { s with ports := q } = { afterBuild op s with ports := q } := by
  cases h : buildError op s with
  | none => rw [afterBuild_of_ok h, afterBuild_of_ok (herror.trans h), hfields]; rfl
  | some e => rw [afterBuild_of_error h, afterBuild_of_error (herror.trans h)]; rfl

/-- A command that is no BUILD completes, and does with other port values what it does with these. -/
theorem exec_congr_ports {i : Instr} (s : State) (q : Ports) (hwf : i.WellFormed) (hi : ¬ IsBuild i) :
    ∃ t, exec i s = .next t ∧ exec i { s with ports := q } = .next { t with ports := q } := by
  cases i with
  | nop | crcClr | crcUpd | cfgWrMarker0 | cfgWrMarker1 | cfgWrMarker2 | cfgWrMarker3 | cfgWrSig0 | cfgWrSig1 =>
    exact ⟨_, rfl, rfl⟩
  | crcCmp d =>
    by_cases hd : s.acc = d
    · exact ⟨_, if_pos hd, if_pos hd⟩
    · exact ⟨_, if_neg hd, if_neg hd⟩
  | cfgWrCtrl d => exact ⟨_, if_pos hwf, if_pos hwf⟩
  | release => exact ⟨_, discardFrame_eq s, discardFrame_eq _⟩
  | build op => exact absurd (.inl ⟨op, rfl⟩) hi
  | frameCeOpen | frameCeClose | frameCwsOpen | frameCwsClose | frameRsiOpen | frameRsiClose | frameToOpen
  | frameToClose => exact absurd (.inr nofun) hi

/-- Settles O43. -/
theorem unusedPortsDoNotMatter : Obligations.UnusedPortsDoNotMatter := by
  refine ⟨fun op s q hctr htime hclock => ⟨_, execBuild_eq op s, ?_⟩, fun i => exec_congr_ports⟩
  refine (execBuild_eq op _).trans (congrArg _ ?_)
  exact afterBuild_congr_ports op (buildError_congr_ports op hctr) (buildFields_congr_ports op hctr htime hclock)

/-! ## The word of a decoded instruction -/

/-- A word is its three fields (R78). -/
theorem commandWord_fields (cw : BitVec 16) :
    commandWord (cw.extractLsb' 12 4) (cw.extractLsb' 8 4) (cw.extractLsb' 0 8) = cw := by
  rw [commandWord, BitVec.extractLsb'_append_extractLsb'_eq_extractLsb' (show 12 = 8 + 4 from rfl)]
  exact BitVec.extractLsb'_append_extractLsb'

theorem needsNoIdx_eq_ok {idx : Nat} {i j : Instr} (h : needsNoIdx idx j = .ok i) : idx = 0 ∧ i = j := by
  unfold needsNoIdx at h
  split at h
  · next hidx => cases h; exact ⟨hidx, rfl⟩
  · cases h

theorem needsNoOperand_eq_ok {idx : Nat} {d : Byte} {i j : Instr} (h : needsNoOperand idx d j = .ok i) :
    idx = 0 ∧ d = 0x00#8 ∧ i = j := by
  unfold needsNoOperand at h
  split at h
  · next hop => cases h; exact ⟨hop.1, hop.2, rfl⟩
  · cases h

theorem encode_of_decodeCfgWr {x : BitVec 4} {d : Byte} {i : Instr} (h : decodeCfgWr x.toNat d = .ok i) :
    encode i = .command (commandWord 0x4#4 x d) := by
  have hx : ∀ y : BitVec 4, x.toNat = y.toNat → x = y := fun y => BitVec.eq_of_toNat_eq
  unfold decodeCfgWr at h
  split at h
  · next hidx =>
    split at h
    · cases h; rw [hx 0x0#4 hidx]; rfl
    · cases h
  · next hidx => cases h; rw [hx 0x1#4 hidx]; rfl
  · next hidx => cases h; rw [hx 0x2#4 hidx]; rfl
  · next hidx => cases h; rw [hx 0x3#4 hidx]; rfl
  · next hidx => cases h; rw [hx 0x4#4 hidx]; rfl
  · next hidx => cases h; rw [hx 0x5#4 hidx]; rfl
  · next hidx => cases h; rw [hx 0x6#4 hidx]; rfl
  · cases h

theorem encode_of_decodeFields {c x : BitVec 4} {d : Byte} {i : Instr}
    (h : decodeFields c.toNat x.toNat d = .ok i) : encode i = .command (commandWord c x d) := by
  have hc : ∀ y : BitVec 4, c.toNat = y.toNat → c = y := fun y => BitVec.eq_of_toNat_eq
  have hx : x.toNat = 0 → x = 0x0#4 := fun h0 => BitVec.eq_of_toNat_eq h0
  unfold decodeFields at h
  split at h
  · next hcmd =>
    obtain ⟨hidx, rfl, rfl⟩ := needsNoOperand_eq_ok h
    rw [hc 0x0#4 hcmd, hx hidx]; rfl
  · next hcmd =>
    obtain ⟨hidx, rfl, rfl⟩ := needsNoOperand_eq_ok h
    rw [hc 0x1#4 hcmd, hx hidx]; rfl
  · next hcmd =>
    obtain ⟨hidx, rfl⟩ := needsNoIdx_eq_ok h
    rw [hc 0x2#4 hcmd, hx hidx]; rfl
  · next hcmd =>
    obtain ⟨hidx, rfl⟩ := needsNoIdx_eq_ok h
    rw [hc 0x3#4 hcmd, hx hidx]; rfl
  · next hcmd =>
    rw [hc 0x4#4 hcmd]
    exact encode_of_decodeCfgWr h
  · next hcmd =>
    obtain ⟨hidx, rfl⟩ := needsNoIdx_eq_ok h
    rw [hc 0x5#4 hcmd, hx hidx]; rfl
  · next hcmd =>
    obtain ⟨hidx, rfl, rfl⟩ := needsNoOperand_eq_ok h
    rw [hc 0x6#4 hcmd, hx hidx]; rfl
  · cases h

/-- A legal word is the encoding of its instruction: decoding drops no bit (R79, R82). -/
theorem encode_of_decodeCommand {cw : BitVec 16} {i : Instr} (h : decodeCommand cw = .ok i) :
    encode i = .command cw :=
  (encode_of_decodeFields h).trans (congrArg _ (commandWord_fields cw))

/-! ## The accumulator along a stream -/

@[simp] theorem commandWord_data (c x : BitVec 4) (d : Byte) : (commandWord c x d).extractLsb' 0 8 = d :=
  BitVec.extractLsb'_append_eq_right

@[simp] theorem commandWord_code (c x : BitVec 4) (d : Byte) : (commandWord c x d).extractLsb' 8 8 = c ++ x :=
  BitVec.extractLsb'_append_eq_left

/-- What a word does to `ACC` by its code (`cmd` and `idx`) and its data byte: 0x1000 clears, 0x20dd absorbs `dd`. -/
theorem accAfter_commandWord (a : Byte) (c x : BitVec 4) (d : Byte) (p : Ports) :
    accAfter a (.command (commandWord c x d) p) =
      if c ++ x = 0x10#8 ∧ d = 0x00#8 then 0x00#8 else if c ++ x = 0x20#8 then crc8Step a d else a := by
  have hclr : commandWord c x d = 0x1000#16 ↔ c ++ x = 0x10#8 ∧ d = 0x00#8 := by
    constructor
    · intro h
      exact ⟨by rw [← commandWord_code c x d, h]; rfl, by rw [← commandWord_data c x d, h]; rfl⟩
    · rintro ⟨hcode, rfl⟩
      rw [commandWord, hcode]; rfl
  simp only [accAfter, hclr, commandWord_code, commandWord_data]

/-- The word of every other command leaves `ACC`. -/
theorem accAfter_of_encode_other {i : Instr} {cw : BitVec 16} (a : Byte) (p : Ports) (hcw : encode i = .command cw)
    (hclr : i ≠ .crcClr) (hupd : ∀ d, i ≠ .crcUpd d) : accAfter a (.command cw p) = a := by
  cases i with
  | crcClr => exact absurd rfl hclr
  | crcUpd d => exact absurd rfl (hupd d)
  | nop | crcCmp | cfgWrCtrl | cfgWrMarker0 | cfgWrMarker1 | cfgWrMarker2 | cfgWrMarker3 | cfgWrSig0 | cfgWrSig1
  | build | release => cases hcw; exact accAfter_commandWord _ _ _ _ _
  | frameCeOpen | frameCeClose | frameCwsOpen | frameCwsClose | frameRsiOpen | frameRsiClose | frameToOpen
  | frameToClose => cases hcw

/-- An instruction leaves in `ACC` what its word does to it (R104, R105, R131). -/
theorem acc_of_exec {i : Instr} {s t : State} {cw : BitVec 16} (p : Ports) (he : exec i s = .next t)
    (hcw : encode i = .command cw) : t.acc = accAfter s.acc (.command cw p) := by
  by_cases hclr : i = .crcClr
  · subst hclr
    cases he; cases hcw
    exact (accAfter_commandWord s.acc 0x1#4 0x0#4 0x00#8 p).symm
  by_cases hupd : ∃ d, i = .crcUpd d
  · obtain ⟨d, rfl⟩ := hupd
    cases he; cases hcw
    exact (accAfter_commandWord s.acc 0x2#4 0x0#4 d p).symm
  · rw [accAfter_of_encode_other s.acc p hcw hclr (not_exists.1 hupd)]
    exact (acc_of_completion (completion_of_exec he)).resolve_right (by simp [hclr, not_exists.1 hupd])

/-- One entry of the stream: it is taken, and `ACC` becomes what the entry makes of it. -/
theorem step_given_cons {x : Input} {l : List Input} {s u : State} (h : step (s.given (x :: l)) = .next u) :
    u.pending = l ++ s.pending ∧ u.acc = accAfter s.acc x := by
  obtain ⟨hp, -⟩ | ⟨rest, hp, rfl⟩ | ⟨cw, p, rest, i, hp, hd, he⟩ := step_cases h
  · cases hp
  · cases hp
    exact ⟨rfl, rfl⟩
  · cases hp
    have hacc := acc_of_exec p he (encode_of_decodeCommand hd)
    exact ⟨(inputs_of_completion (completion_of_exec he)).2, hacc⟩

/-- A state whose stream begins with `l` was given `l`. -/
theorem eq_given_of_pending {u : State} {l rest : List Input} (hp : u.pending = l ++ rest) :
    u = ({ u with pending := rest } : State).given l := by
  rw [State.given, ← hp]

/-- Settles O19, by induction on the stream. -/
theorem accumulatorIsTheFoldOfTheStream : Obligations.AccumulatorIsTheFoldOfTheStream := by
  intro l s t h
  induction l generalizing s with
  | nil => cases h; rfl
  | cons x l ih =>
    obtain ⟨u, hstep, hrest⟩ := andThen_eq_next h
    obtain ⟨hp, hacc⟩ := step_given_cons hstep
    rw [eq_given_of_pending hp] at hrest
    rw [List.foldl_cons, ← hacc]
    exact ih { u with pending := s.pending } hrest

end Sys2Proof.Machine

namespace Sys2Proof.Machine

/-! ## No instruction leaves the FRAME space

Every operation that writes FRAME does so inside its 33 bytes (R91), so an instruction completes or is refused. -/

/-- A frame row completes as its BUILD or is refused (log entry 5). -/
theorem buildYielding_ne_fault (kind : StrategyKind) (fields : BodyFields) (s : State) (f : Fault) :
    buildYielding kind fields s ≠ .fault f := by
  rw [buildYielding]
  split
  · rw [completeBuild_eq s (layout_length fields)]; nofun
  · nofun

theorem execCfgWrCtrl_ne_fault (d : Byte) (s : State) (f : Fault) : execCfgWrCtrl d s ≠ .fault f := by
  rw [execCfgWrCtrl]
  split <;> nofun

theorem execCrcCmp_ne_fault (d : Byte) (s : State) (f : Fault) : execCrcCmp d s ≠ .fault f := by
  rw [execCrcCmp]
  split <;> nofun

theorem execBuild_ne_fault (op : Byte) (s : State) (f : Fault) : execBuild op s ≠ .fault f := by
  rw [execBuild_eq]
  nofun

theorem execRelease_ne_fault (s : State) (f : Fault) : execRelease s ≠ .fault f := by
  rw [execRelease, discardFrame_eq]
  nofun

theorem exec_ne_fault (i : Instr) (s : State) (f : Fault) : exec i s ≠ .fault f := by
  cases i with
  | nop => nofun
  | crcClr => nofun
  | crcUpd d => nofun
  | crcCmp d => exact execCrcCmp_ne_fault d s f
  | cfgWrCtrl d => exact execCfgWrCtrl_ne_fault d s f
  | cfgWrMarker0 d => nofun
  | cfgWrMarker1 d => nofun
  | cfgWrMarker2 d => nofun
  | cfgWrMarker3 d => nofun
  | cfgWrSig0 d => nofun
  | cfgWrSig1 d => nofun
  | build op => exact execBuild_ne_fault op s f
  | release => exact execRelease_ne_fault s f
  | frameCeOpen n => exact buildYielding_ne_fault _ _ s f
  | frameCeClose n => exact buildYielding_ne_fault _ _ s f
  | frameCwsOpen n m g v => exact buildYielding_ne_fault _ _ s f
  | frameCwsClose n m g v => exact buildYielding_ne_fault _ _ s f
  | frameRsiOpen c tag hh mm => exact buildYielding_ne_fault _ _ s f
  | frameRsiClose c tag hh mm => exact buildYielding_ne_fault _ _ s f
  | frameToOpen n hh mm => exact buildYielding_ne_fault _ _ s f
  | frameToClose n hh mm => exact buildYielding_ne_fault _ _ s f

/-- A word is executed or, when reserved, refused (R88). -/
theorem runWord_ne_fault (cw : BitVec 16) (s : State) (f : Fault) : runWord cw s ≠ .fault f := by
  rw [runWord]
  split
  · exact exec_ne_fault _ s f
  · nofun

theorem step_ne_fault (s : State) (f : Fault) : step s ≠ .fault f := by
  rw [step]
  split
  · nofun
  · nofun
  · exact runWord_ne_fault _ _ f

/-- Settles O9, by the cases of `fetch` and of the instruction. -/
theorem nothingFaults : Obligations.NothingFaults := ⟨step_ne_fault, exec_ne_fault⟩

/-! ## The integers of a frame (R52) -/

/-- A little-endian read takes back the bytes that `LE32` gives. -/
@[simp] theorem le32Value_le32 (v : BitVec 32) : le32Value (le32 v) = v := by
  simp only [le32Value, le32]
  rw [BitVec.extractLsb'_append_extractLsb'_eq_extractLsb' (by decide),
    BitVec.extractLsb'_append_extractLsb'_eq_extractLsb' (by decide),
    BitVec.extractLsb'_append_extractLsb'_eq_extractLsb' (by decide)]
  exact BitVec.extractLsb'_eq_self

/-- A big-endian read takes back the bytes that `BE16` gives. -/
@[simp] theorem be16Value_be16 (v : BitVec 16) : be16Value (be16 v) = v := by
  simp only [be16Value, be16]
  rw [BitVec.extractLsb'_append_extractLsb'_eq_extractLsb' (by decide)]
  exact BitVec.extractLsb'_eq_self

/-- A counter in range is its low 32 bits (R75, R161). -/
theorem counter32_toNat {c : BitVec 64} (h : counterFits c = true) : (counter32 c).toNat = c.toNat := by
  have hc : c.toNat ≤ 0xFFFFFFFF := of_decide_eq_true h
  rw [counter32, BitVec.extractLsb'_toNat]
  omega

theorem bucketValue_toNat (w : Nat) (t : BitVec 64) : (bucketValue w t).toNat = t.toNat / w % 65536 :=
  BitVec.toNat_ofNat _ _

theorem usesCounter32_of_ne {kind : StrategyKind} (h : kind ≠ .rollingSessionId) : usesCounter32 kind = true := by
  cases kind with
  | rollingSessionId => exact absurd rfl h
  | counterEcho | counterWithSignature | tickOnly => rfl

theorem deriveNonce_of_usesCounter32 {kind : StrategyKind} (p : Ports) (h : usesCounter32 kind = true) :
    deriveNonce kind p = le32 (counter32 p.ctr) := by
  cases kind with
  | rollingSessionId => cases h
  | counterEcho | counterWithSignature | tickOnly => rfl

/-- A BUILD that holds a frame has passed the range check, and the frame is that of the resolved fields. -/
theorem afterBuild_of_valid {op : Byte} {s : State} (hv : statusFrameValid (afterBuild op s).status = true) :
    (usesCounter32 s.cfg.kind = true → counterFits s.ports.ctr = true) ∧
      frameBytes (afterBuild op s).frame = sealed (layout (buildFields op s)) := by
  obtain ⟨-, herr⟩ | ⟨-, -, -, herr⟩ | ⟨-, hfits, hok⟩ := buildError_cases op s
  · simp [afterBuild_of_error herr] at hv
  · simp [afterBuild_of_error herr] at hv
  · refine ⟨hfits, ?_⟩
    rw [afterBuild_of_ok hok, filled_frame, frameBytes_store _ (sealed_length _)]

/-- Offsets 0 to 3 of a frame, read little-endian, are its nonce read so. -/
theorem sealed_nonceValue (f : BodyFields) :
    byteAt (sealed (layout f)) 3 ++ byteAt (sealed (layout f)) 2 ++ byteAt (sealed (layout f)) 1
      ++ byteAt (sealed (layout f)) 0 = le32Value f.nonce := rfl

/-- Offsets 16 and 17 of a frame, read big-endian, are the first two bytes of its freshness read so. -/
theorem sealed_freshValue (f : BodyFields) :
    byteAt (sealed (layout f)) 16 ++ byteAt (sealed (layout f)) 17 = be16Value ⟨f.fresh.b0, f.fresh.b1⟩ := rfl

theorem buildFields_nonceValue {op : Byte} {s : State} (h : usesCounter32 s.cfg.kind = true) :
    le32Value (buildFields op s).nonce = counter32 s.ports.ctr := by
  rw [buildFields, deriveNonce_of_usesCounter32 _ h, le32Value_le32]

theorem buildFields_freshValue {op : Byte} {s : State} (h : s.cfg.kind = .counterWithSignature) :
    be16Value ⟨(buildFields op s).fresh.b0, (buildFields op s).fresh.b1⟩
      = bucketValue s.cfg.bucketWidth s.ports.unixTime := by
  rw [buildFields, h]
  exact be16Value_be16 _

/-- Settles O40. The bytes of the frame are those of the resolved fields, and each read inverts the form its field was
written in. -/
theorem frameIntegersReadBack : Obligations.FrameIntegersReadBack := by
  intro op s t hexec hvalid
  cases (execBuild_eq op s).symm.trans hexec
  obtain ⟨hfits, hframe⟩ := afterBuild_of_valid hvalid
  rw [hframe]
  refine ⟨fun hkind => ?counter, fun hkind => ?bucket⟩
  case counter =>
    have huses : usesCounter32 s.cfg.kind = true := usesCounter32_of_ne hkind
    rw [sealed_nonceValue, buildFields_nonceValue huses, counter32_toNat (hfits huses)]
  case bucket =>
    rw [sealed_freshValue, buildFields_freshValue hkind, bucketValue_toNat]

end Sys2Proof.Machine

namespace Sys2Proof.Machine

/-! ## Command words: decode takes back what encode gives, and refuses the reserved words -/

@[simp] theorem commandWord_cmd (c x : BitVec 4) (d : Byte) : (commandWord c x d).extractLsb' 12 4 = c := by
  rw [commandWord, BitVec.extractLsb'_append_eq_of_le (by decide)]
  exact BitVec.extractLsb'_append_eq_left

@[simp] theorem commandWord_idx (c x : BitVec 4) (d : Byte) : (commandWord c x d).extractLsb' 8 4 = x := by
  rw [commandWord, BitVec.extractLsb'_append_eq_of_le (by decide)]
  exact BitVec.extractLsb'_append_eq_right

/-- The decoder reads a word by its three fields (R78). -/
theorem decodeCommand_commandWord (c x : BitVec 4) (d : Byte) :
    decodeCommand (commandWord c x d) = decodeFields c.toNat x.toNat d := by
  rw [decodeCommand, commandWord_cmd, commandWord_idx, commandWord_data]

/-- CTRL's data byte is the one operand that the decoder checks (R81). -/
theorem decodeCfgWr_zero_eq_ok_iff {d : Byte} {i : Instr} :
    decodeCfgWr 0 d = .ok i ↔ ctrlLegal d = true ∧ .cfgWrCtrl d = i := by
  rw [decodeCfgWr]
  split <;> simp_all

/-- The word of a well-formed command decodes to that command. -/
theorem decodeCommand_of_encode {i : Instr} {cw : BitVec 16} (hwf : i.WellFormed) (hcw : encode i = .command cw) :
    decodeCommand cw = .ok i := by
  cases i with
  | cfgWrCtrl d =>
    cases hcw
    exact (decodeCommand_commandWord 0x4#4 0x0#4 d).trans (decodeCfgWr_zero_eq_ok_iff.2 ⟨hwf, rfl⟩)
  | nop | crcClr | crcUpd | crcCmp | cfgWrMarker0 | cfgWrMarker1 | cfgWrMarker2 | cfgWrMarker3 | cfgWrSig0 | cfgWrSig1
  | build | release => cases hcw; exact decodeCommand_commandWord _ _ _
  | frameCeOpen | frameCeClose | frameCwsOpen | frameCwsClose | frameRsiOpen | frameRsiClose | frameToOpen
  | frameToClose => cases hcw

/-- What a word decodes to is well-formed: CTRL's reserved bits were checked (R81, R88). -/
theorem wellFormed_of_decodeCommand {cw : BitVec 16} {i : Instr} (h : decodeCommand cw = .ok i) : i.WellFormed := by
  have hcw := encode_of_decodeCommand h
  cases i with
  | cfgWrCtrl d =>
    cases hcw
    have hctrl : decodeCfgWr 0 d = .ok (.cfgWrCtrl d) := (decodeCommand_commandWord 0x4#4 0x0#4 d).symm.trans h
    exact (decodeCfgWr_zero_eq_ok_iff.1 hctrl).1
  | _ => rfl

theorem frameKind_of_encode_command {i : Instr} {cw : BitVec 16} (h : encode i = .command cw) : i.frameKind = none := by
  cases i with
  | frameCeOpen | frameCeClose | frameCwsOpen | frameCwsClose | frameRsiOpen | frameRsiClose | frameToOpen
  | frameToClose => cases h
  | _ => rfl

theorem frameKind_ne_none_of_encode_frame {i : Instr} {bytes : List Byte} (h : encode i = .frame bytes) :
    i.frameKind ≠ none := by
  cases i with
  | frameCeOpen | frameCeClose | frameCwsOpen | frameCwsClose | frameRsiOpen | frameRsiClose | frameToOpen
  | frameToClose => nofun
  | _ => cases h

/-! ## The eight frame rows

A frame row is a strategy and the fields of its column of R71. What `exec`, `encode` and the decoder make of a row is
said here once for all eight, by its strategy and fields. -/

/-- `FrameRow i kind f`: `i` is the row of strategy `kind` whose fields are `f`. -/
inductive FrameRow : Instr → StrategyKind → BodyFields → Prop
  | ceOpen (n : BitVec 32) : FrameRow (.frameCeOpen n) .counterEcho (fieldsCe n 0x01#8)
  | ceClose (n : BitVec 32) : FrameRow (.frameCeClose n) .counterEcho (fieldsCe n 0x02#8)
  | cwsOpen (n : BitVec 32) (m : Bytes4) (g : Bytes2) (v : BitVec 16) :
      FrameRow (.frameCwsOpen n m g v) .counterWithSignature (fieldsCws n m g v 0x01#8)
  | cwsClose (n : BitVec 32) (m : Bytes4) (g : Bytes2) (v : BitVec 16) :
      FrameRow (.frameCwsClose n m g v) .counterWithSignature (fieldsCws n m g v 0x02#8)
  | rsiOpen (c : Byte) (t : Bytes3) (hh mm : Byte) :
      FrameRow (.frameRsiOpen c t hh mm) .rollingSessionId (fieldsRsi c t hh mm 0x01#8)
  | rsiClose (c : Byte) (t : Bytes3) (hh mm : Byte) :
      FrameRow (.frameRsiClose c t hh mm) .rollingSessionId (fieldsRsi c t hh mm 0x02#8)
  | toOpen (n : BitVec 32) (hh mm : Byte) : FrameRow (.frameToOpen n hh mm) .tickOnly (fieldsTo n hh mm 0x01#8)
  | toClose (n : BitVec 32) (hh mm : Byte) : FrameRow (.frameToClose n hh mm) .tickOnly (fieldsTo n hh mm 0x02#8)

theorem exists_frameRow_of_frameKind {i : Instr} {kind : StrategyKind} (h : i.frameKind = some kind) :
    ∃ f, FrameRow i kind f := by
  cases i with
  | frameCeOpen n => cases h; exact ⟨_, .ceOpen n⟩
  | frameCeClose n => cases h; exact ⟨_, .ceClose n⟩
  | frameCwsOpen n m g v => cases h; exact ⟨_, .cwsOpen n m g v⟩
  | frameCwsClose n m g v => cases h; exact ⟨_, .cwsClose n m g v⟩
  | frameRsiOpen c t hh mm => cases h; exact ⟨_, .rsiOpen c t hh mm⟩
  | frameRsiClose c t hh mm => cases h; exact ⟨_, .rsiClose c t hh mm⟩
  | frameToOpen n hh mm => cases h; exact ⟨_, .toOpen n hh mm⟩
  | frameToClose n hh mm => cases h; exact ⟨_, .toClose n hh mm⟩
  | _ => cases h

namespace FrameRow

variable {i : Instr} {kind : StrategyKind} {f f' : BodyFields}

theorem congr_fields (h : FrameRow i kind f) (hf : f' = f) : FrameRow i kind f' := hf ▸ h

theorem frameKind_eq (h : FrameRow i kind f) : i.frameKind = some kind := by cases h <;> rfl

theorem wellFormed (h : FrameRow i kind f) : i.WellFormed := by cases h <;> rfl

theorem encode_eq (h : FrameRow i kind f) : encode i = .frame (sealed (layout f)) := by cases h <;> rfl

theorem exec_eq (h : FrameRow i kind f) (s : State) : exec i s = buildYielding kind f s := by cases h <;> rfl

theorem opcode (h : FrameRow i kind f) : f.op = 0x01#8 ∨ f.op = 0x02#8 := by
  cases h with
  | ceOpen | cwsOpen | rsiOpen | toOpen => exact .inl rfl
  | ceClose | cwsClose | rsiClose | toClose => exact .inr rfl

/-- Every column of R71 mirrors its freshness (R72 item 6). -/
theorem mirrored (h : FrameRow i kind f) : f.fresh.b2 = f.fresh.b0 ∧ f.fresh.b3 = f.fresh.b1 := by
  cases h <;> exact ⟨rfl, rfl⟩

/-- The decoder finds the row of a row's fields: each operand is read back from the bytes it was written to. -/
theorem rowOfFields_eq (h : FrameRow i kind f) : rowOfFields kind f = .ok i := by
  cases h with
  | ceOpen n | ceClose n => simp [rowOfFields, fieldsCe, byOpcode]
  | cwsOpen n m g v | cwsClose n m g v =>
    have hv : be16Value ⟨(mirror (be16 v)).b0, (mirror (be16 v)).b1⟩ = v := be16Value_be16 v
    simp [rowOfFields, fieldsCws, byOpcode, hv]
  | rsiOpen c t hh mm | rsiClose c t hh mm => simp [rowOfFields, fieldsRsi, byOpcode, mirror]
  | toOpen n hh mm | toClose n hh mm => simp [rowOfFields, fieldsTo, byOpcode, mirror]

end FrameRow

/-! ## Frames: what decodes is a sealed row -/

theorem ite_error_eq_ok_iff {p : Prop} [Decidable p] {e : NotAFrame} {x : Except NotAFrame Instr} {i : Instr} :
    (if p then .error e else x) = .ok i ↔ ¬ p ∧ x = .ok i := by
  split <;> simp_all

/-- The frame decoder's checks, and then the row of the fields (R71, R72, R77). -/
theorem decodeFrame_eq_ok_iff_checks {kind : StrategyKind} {bytes : List Byte} {i : Instr} :
    decodeFrame kind bytes = .ok i ↔
      bytes.length = 33 ∧ bytes4At bytes 4 = bytes4At bytes 0 ∧
        reservedOffsets.all (fun k => byteAt bytes k == 0x00#8) = true ∧
        (byteAt bytes 18 = byteAt bytes 16 ∧ byteAt bytes 19 = byteAt bytes 17) ∧
        byteAt bytes 32 = crc8 (bytes.take 32) ∧ rowOfFields kind (fieldsOfFrame bytes) = .ok i := by
  simp only [decodeFrame, ite_error_eq_ok_iff, ne_eq, not_or, not_not]

/-- Every check of the frame decoder passes on a sealed layout whose freshness is mirrored. -/
theorem decodeFrame_sealed_layout {kind : StrategyKind} {f : BodyFields} {i : Instr}
    (hmirror : f.fresh.b2 = f.fresh.b0 ∧ f.fresh.b3 = f.fresh.b1) (hrow : rowOfFields kind f = .ok i) :
    decodeFrame kind (sealed (layout f)) = .ok i :=
  decodeFrame_eq_ok_iff_checks.2
    ⟨sealed_length f, (sealed_echo f).trans (sealed_nonce f).symm, sealed_reserved f, hmirror,
      sealed_checksum f, hrow⟩

theorem take_eq_map_byteAt {bytes : List Byte} {n : Nat} (h : n ≤ bytes.length) :
    bytes.take n = (List.range n).map (byteAt bytes) := by
  apply List.ext_getElem
  · simpa using h
  · intro k hk _
    have hlt : k < bytes.length := by simp at hk; omega
    simp [byteAt, hlt]

/-- In 33 bytes whose echo, zero bytes and mirror are right, the first 32 are the layout of the free fields. -/
theorem layout_fieldsOfFrame {bytes : List Byte} (hlen : bytes.length = 33)
    (hecho : bytes4At bytes 4 = bytes4At bytes 0)
    (hzero : reservedOffsets.all (fun k => byteAt bytes k == 0x00#8) = true) :
    layout (fieldsOfFrame bytes) = bytes.take 32 := by
  simp only [reservedOffsets, List.all_cons, List.all_nil, Bool.and_true, Bool.and_eq_true, beq_iff_eq] at hzero
  have hfields : layout (fieldsOfFrame bytes) = list4 (bytes4At bytes 0) ++ list4 (bytes4At bytes 4) ++
      [8, 9, 10, 11, 12, 13].map (byteAt bytes) ++ [14, 15].map (byteAt bytes) ++
      [16, 17, 18, 19].map (byteAt bytes) ++ [20, 21, 22, 23].map (byteAt bytes) ++ [byteAt bytes 24] ++
      [25, 26, 27, 28, 29, 30, 31].map (byteAt bytes) := by
    rw [hecho]
    simp [layout, fieldsOfFrame, bytes4At, list2, list4, List.replicate_succ, hzero]
  rw [hfields, take_eq_map_byteAt (by omega)]
  rfl

/-- 33 bytes that pass the checks are the sealed layout of their free fields, so the decoder drops no bit (R72). -/
theorem sealed_layout_fieldsOfFrame {bytes : List Byte} (hlen : bytes.length = 33)
    (hecho : bytes4At bytes 4 = bytes4At bytes 0)
    (hzero : reservedOffsets.all (fun k => byteAt bytes k == 0x00#8) = true)
    (hsum : byteAt bytes 32 = crc8 (bytes.take 32)) : sealed (layout (fieldsOfFrame bytes)) = bytes := by
  have hlast : [byteAt bytes 32] = bytes.drop 32 := by
    have h32 : 32 < bytes.length := by omega
    rw [List.drop_eq_getElem_cons h32, List.drop_eq_nil_of_le (by omega)]
    simp [byteAt, h32]
  rw [layout_fieldsOfFrame hlen hecho hzero, sealed, ← hsum, hlast, List.take_append_drop]

/-! ## Fields that have a row -/

theorem byOpcode_eq_ok {op : Byte} {openRow closeRow i : Instr} (h : byOpcode op openRow closeRow = .ok i) :
    (op = 0x01#8 ∧ i = openRow) ∨ (op = 0x02#8 ∧ i = closeRow) := by
  unfold byOpcode at h
  split at h
  · next hop => cases h; exact .inl ⟨hop, rfl⟩
  · split at h
    · next hop => cases h; exact .inr ⟨hop, rfl⟩
    · cases h

/-- A read above the lowest byte of a number does not see that byte. -/
theorem extractLsb'_append_byte {w : Nat} (hi : BitVec w) (lo : Byte) (k : Nat) :
    (hi ++ lo).extractLsb' (8 + k) 8 = hi.extractLsb' k 8 := by
  rw [BitVec.extractLsb'_append_eq_of_le (Nat.le_add_right 8 k), Nat.add_sub_cancel_left]

/-- `LE32` gives back the bytes that a little-endian read takes. -/
@[simp] theorem le32_le32Value (q : Bytes4) : le32 (le32Value q) = q := by
  obtain ⟨b0, b1, b2, b3⟩ := q
  exact (Bytes4.mk.injEq ..).mpr ⟨BitVec.extractLsb'_append_eq_right,
    (extractLsb'_append_byte _ b0 0).trans BitVec.extractLsb'_append_eq_right,
    ((extractLsb'_append_byte _ b0 8).trans (extractLsb'_append_byte _ b1 0)).trans BitVec.extractLsb'_append_eq_right,
    ((extractLsb'_append_byte _ b0 16).trans (extractLsb'_append_byte _ b1 8)).trans
      BitVec.extractLsb'_append_eq_left⟩

/-- `BE16` gives back the bytes that a big-endian read takes. -/
@[simp] theorem be16_be16Value (p : Bytes2) : be16 (be16Value p) = p := by
  exact (Bytes2.mk.injEq ..).mpr ⟨BitVec.extractLsb'_append_eq_left, BitVec.extractLsb'_append_eq_right⟩

/-- A mirrored field is the mirror of its first two bytes. -/
theorem mirror_of_mirrored {q : Bytes4} (h : q.b2 = q.b0 ∧ q.b3 = q.b1) : mirror ⟨q.b0, q.b1⟩ = q := by
  obtain ⟨h2, h3⟩ := h
  exact (Bytes4.mk.injEq ..).mpr ⟨rfl, rfl, h2.symm, h3.symm⟩

section

variable {f : BodyFields} {op : Byte}

/-- Fields with a column's zero cells are that column's, with the operands that the decoder reads from them. -/
theorem eq_fieldsCe (hsession : f.session = zero4) (hsig : f.sig = zero2) (hfresh : f.fresh = zero4) (hop : f.op = op) :
    f = fieldsCe (le32Value f.nonce) op := by
  obtain ⟨nonce, session, sig, fresh, op'⟩ := f
  subst hsession hsig hfresh hop
  simp only [fieldsCe, le32_le32Value]

theorem eq_fieldsCws (hmirror : f.fresh.b2 = f.fresh.b0 ∧ f.fresh.b3 = f.fresh.b1) (hop : f.op = op) :
    f = fieldsCws (le32Value f.nonce) f.session f.sig (be16Value ⟨f.fresh.b0, f.fresh.b1⟩) op := by
  rw [fieldsCws, le32_le32Value, be16_be16Value, mirror_of_mirrored hmirror, ← hop]

theorem eq_fieldsRsi (hsession : f.session = zero4) (hsig : f.sig = zero2)
    (hmirror : f.fresh.b2 = f.fresh.b0 ∧ f.fresh.b3 = f.fresh.b1) (hop : f.op = op) :
    f = fieldsRsi f.nonce.b0 ⟨f.nonce.b1, f.nonce.b2, f.nonce.b3⟩ f.fresh.b0 f.fresh.b1 op := by
  rw [fieldsRsi, mirror_of_mirrored hmirror, ← hsession, ← hsig, ← hop]

theorem eq_fieldsTo (hsession : f.session = zero4) (hsig : f.sig = zero2)
    (hmirror : f.fresh.b2 = f.fresh.b0 ∧ f.fresh.b3 = f.fresh.b1) (hop : f.op = op) :
    f = fieldsTo (le32Value f.nonce) f.fresh.b0 f.fresh.b1 op := by
  rw [fieldsTo, le32_le32Value, mirror_of_mirrored hmirror, ← hsession, ← hsig, ← hop]

end

/-- Fields with a mirrored freshness that the decoder gives a row are the fields of that row. -/
theorem frameRow_of_rowOfFields {kind : StrategyKind} {f : BodyFields} {i : Instr}
    (hmirror : f.fresh.b2 = f.fresh.b0 ∧ f.fresh.b3 = f.fresh.b1) (h : rowOfFields kind f = .ok i) :
    FrameRow i kind f := by
  cases kind with
  | counterEcho =>
    simp only [rowOfFields] at h
    split at h
    · next hcells =>
      obtain ⟨hsession, hsig, hfresh⟩ := hcells
      obtain ⟨hop, rfl⟩ | ⟨hop, rfl⟩ := byOpcode_eq_ok h
      · exact (FrameRow.ceOpen _).congr_fields (eq_fieldsCe hsession hsig hfresh hop)
      · exact (FrameRow.ceClose _).congr_fields (eq_fieldsCe hsession hsig hfresh hop)
    · cases h
  | counterWithSignature =>
    obtain ⟨hop, rfl⟩ | ⟨hop, rfl⟩ := byOpcode_eq_ok h
    · exact (FrameRow.cwsOpen _ _ _ _).congr_fields (eq_fieldsCws hmirror hop)
    · exact (FrameRow.cwsClose _ _ _ _).congr_fields (eq_fieldsCws hmirror hop)
  | rollingSessionId =>
    simp only [rowOfFields] at h
    split at h
    · next hcells =>
      obtain ⟨hsession, hsig⟩ := hcells
      obtain ⟨hop, rfl⟩ | ⟨hop, rfl⟩ := byOpcode_eq_ok h
      · exact (FrameRow.rsiOpen _ _ _ _).congr_fields (eq_fieldsRsi hsession hsig hmirror hop)
      · exact (FrameRow.rsiClose _ _ _ _).congr_fields (eq_fieldsRsi hsession hsig hmirror hop)
    · cases h
  | tickOnly =>
    simp only [rowOfFields] at h
    split at h
    · next hcells =>
      obtain ⟨hsession, hsig⟩ := hcells
      obtain ⟨hop, rfl⟩ | ⟨hop, rfl⟩ := byOpcode_eq_ok h
      · exact (FrameRow.toOpen _ _ _).congr_fields (eq_fieldsTo hsession hsig hmirror hop)
      · exact (FrameRow.toClose _ _ _).congr_fields (eq_fieldsTo hsession hsig hmirror hop)
    · cases h

/-- The frames of a strategy are exactly the sealed rows of that strategy. -/
theorem decodeFrame_eq_ok_iff {kind : StrategyKind} {bytes : List Byte} {i : Instr} :
    decodeFrame kind bytes = .ok i ↔ ∃ f, FrameRow i kind f ∧ bytes = sealed (layout f) := by
  constructor
  · intro h
    obtain ⟨hlen, hecho, hzero, hmirror, hsum, hrow⟩ := decodeFrame_eq_ok_iff_checks.1 h
    exact ⟨fieldsOfFrame bytes, frameRow_of_rowOfFields hmirror hrow,
      (sealed_layout_fieldsOfFrame hlen hecho hzero hsum).symm⟩
  · rintro ⟨f, hrow, rfl⟩
    exact decodeFrame_sealed_layout hrow.mirrored hrow.rowOfFields_eq

/-! ## Decode and encode -/

theorem mapError_eq_ok_iff {ε ε' α : Type} {g : ε → ε'} {x : Except ε α} {a : α} :
    x.mapError g = .ok a ↔ x = .ok a := by
  cases x <;> simp [Except.mapError]

theorem decode_command_eq_ok_iff {kind : StrategyKind} {cw : BitVec 16} {i : Instr} :
    decode kind (.command cw) = .ok i ↔ decodeCommand cw = .ok i := mapError_eq_ok_iff

theorem decode_frame_eq_ok_iff {kind : StrategyKind} {bytes : List Byte} {i : Instr} :
    decode kind (.frame bytes) = .ok i ↔ decodeFrame kind bytes = .ok i := mapError_eq_ok_iff

/-- Settles O10: a command by its three fields, a frame row by its strategy and fields. -/
theorem decodeInvertsEncode : Obligations.DecodeInvertsEncode := by
  intro i kind hwf hkind
  cases hi : encode i with
  | command cw => exact decode_command_eq_ok_iff.2 (decodeCommand_of_encode hwf hi)
  | frame bytes =>
    have hframe : i.frameKind = some kind := hkind.resolve_left (frameKind_ne_none_of_encode_frame hi)
    obtain ⟨f, hrow⟩ := exists_frameRow_of_frameKind hframe
    have hbytes : bytes = sealed (layout f) := Encoded.frame.inj (hi.symm.trans hrow.encode_eq)
    exact decode_frame_eq_ok_iff.2 (decodeFrame_eq_ok_iff.2 ⟨f, hrow, hbytes⟩)

/-- Settles O11: a legal word by its fields; a frame as the sealed row that the decoder's checks make it. -/
theorem encodeInvertsDecode : Obligations.EncodeInvertsDecode := by
  intro e kind i h
  cases e with
  | command cw =>
    have hd := decode_command_eq_ok_iff.1 h
    have hcw := encode_of_decodeCommand hd
    exact ⟨wellFormed_of_decodeCommand hd, hcw, .inl ⟨cw, rfl, frameKind_of_encode_command hcw⟩⟩
  | frame bytes =>
    obtain ⟨f, hrow, rfl⟩ := decodeFrame_eq_ok_iff.1 (decode_frame_eq_ok_iff.1 h)
    exact ⟨hrow.wellFormed, hrow.encode_eq, .inr ⟨_, rfl, hrow.frameKind_eq⟩⟩

end Sys2Proof.Machine

namespace Sys2Proof.Machine

/-! ## When BUILD makes a frame -/

theorem exec_build (op : Byte) (s : State) : exec (.build op) s = .next (afterBuild op s) := execBuild_eq op s

/-- BUILD reports no error exactly for a legal opcode and a counter that its strategy can hold (R139, R140). -/
theorem buildError_eq_none_iff (op : Byte) (s : State) :
    buildError op s = none ↔
      (op = 0x01#8 ∨ op = 0x02#8) ∧ (usesCounter32 s.cfg.kind = true → counterFits s.ports.ctr = true) := by
  obtain ⟨⟨h1, h2⟩, herr⟩ | ⟨-, huses, hwide, herr⟩ | ⟨hop, hfits, herr⟩ := buildError_cases op s
  · simp [herr, h1, h2]
  · simp [herr, huses, hwide]
  · exact iff_of_true herr ⟨hop, hfits⟩

/-- BUILD ends with a frame held exactly when it reports no error. -/
theorem statusFrameValid_afterBuild (op : Byte) (s : State) :
    statusFrameValid (afterBuild op s).status = true ↔ buildError op s = none := by
  cases h : buildError op s with
  | none => simp [afterBuild_of_ok h]
  | some e => simp [afterBuild_of_error h]

@[simp] theorem frameBytes_emptied (s : State) : frameBytes (emptied s).frame = zeros 33 :=
  frameBytes_store _ (by simp)

@[simp] theorem frameBytes_filled (f : BodyFields) (s : State) :
    frameBytes (filled (layout f) s).frame = sealed (layout f) :=
  frameBytes_store _ (sealed_length f)

theorem builtFrom_filled (f : BodyFields) (s : State) : BuiltFrom (layout f) s (filled (layout f) s) where
  frame := frameBytes_filled f s
  valid := by simp
  err := by simp
  errField := by simp
  matchBit := by simp
  acc := rfl
  cfg := rfl
  ports := rfl
  pending := rfl

/-! ## The frame invariants (R72) -/

@[simp] theorem crc8Step_self (a : Byte) : crc8Step a a = 0x00#8 := by
  rw [crc8Step_eq, BitVec.xor_self]
  rfl

/-- A body followed by its checksum has checksum 0 (R72 item 7, R110). -/
theorem crc8_sealed (body : List Byte) : crc8 (sealed body) = 0x00#8 := by
  simp [sealed, crc8_append]

/-- Settles O39. The frame held is the sealed layout of the resolved fields, under a legal opcode. -/
theorem everyBuiltFrameHasTheInvariants : Obligations.EveryBuiltFrameHasTheInvariants := by
  intro op s t hexec hvalid
  cases (exec_build op s).symm.trans hexec
  obtain ⟨hop, -⟩ := (buildError_eq_none_iff op s).1 ((statusFrameValid_afterBuild op s).1 hvalid)
  rw [(afterBuild_of_valid hvalid).2]
  exact ⟨frameOk_buildFields s hop, crc8_sealed _⟩

/-! ## The frame BUILD yields -/

/-- BUILD at `s` makes the frame of `f` under strategy `kind`: the condition on which a frame row completes. -/
def Yields (kind : StrategyKind) (f : BodyFields) (s : State) : Prop :=
  s.cfg.kind = kind ∧ buildError f.op s = none ∧ buildFields f.op s = f

section yields

variable {kind : StrategyKind} {f : BodyFields} {s : State} {i : Instr}

theorem afterBuild_of_yields (h : Yields kind f s) : afterBuild f.op s = filled (layout f) s := by
  obtain ⟨-, hok, hfields⟩ := h
  rw [afterBuild_of_ok hok, hfields]

theorem FrameRow.exec_of_yields (hrow : FrameRow i kind f) (h : Yields kind f s) :
    exec i s = .next (filled (layout f) s) := by
  rw [hrow.exec_eq, ← completeBuild_eq s (layout_length f)]
  exact if_pos h

theorem FrameRow.exec_of_not_yields (hrow : FrameRow i kind f) (h : ¬ Yields kind f s) :
    exec i s = .refused .frameNotProduced := by
  rw [hrow.exec_eq]
  exact if_neg h

/-- A frame row completes, with its own bytes, wherever BUILD yields its frame. -/
theorem FrameRow.completesAsRow (hrow : FrameRow i kind f) (h : Yields kind f s) : CompletesAsRow i f.op s := by
  have hbuild : exec (.build f.op) s = .next (filled (layout f) s) := by
    rw [exec_build, afterBuild_of_yields h]
  exact ⟨filled (layout f) s, layout f, hrow.exec_of_yields h, hbuild, hrow.encode_eq, layout_length f,
    builtFrom_filled f s⟩

/-- A sealed layout with a legal opcode is not the empty FRAME. -/
theorem zeros_ne_sealed_layout (hop : f.op = 0x01#8 ∨ f.op = 0x02#8) : zeros 33 ≠ sealed (layout f) := by
  intro h
  have hbyte : 0x00#8 = f.op := congrArg (byteAt · 24) h
  rcases hop with h1 | h2
  · rw [h1] at hbyte; cases hbyte
  · rw [h2] at hbyte; cases hbyte

theorem sealed_layout_injective {f' : BodyFields} (h : sealed (layout f) = sealed (layout f')) : f = f' := by
  have hfields := congrArg fieldsOfFrame h
  rwa [fieldsOfFrame_sealed, fieldsOfFrame_sealed] at hfields

/-- Under the row's strategy BUILD yields the row's frame exactly when it leaves the row's bytes. -/
theorem FrameRow.yields_iff (hrow : FrameRow i kind f) (hkind : s.cfg.kind = kind) :
    Yields kind f s ↔ frameBytes (afterBuild f.op s).frame = sealed (layout f) := by
  constructor
  · intro h
    rw [afterBuild_of_yields h, frameBytes_filled]
  · intro h
    cases herr : buildError f.op s with
    | none =>
      rw [afterBuild_of_ok herr, frameBytes_filled] at h
      exact ⟨hkind, herr, sealed_layout_injective h⟩
    | some e =>
      rw [afterBuild_of_error herr, frameBytes_emptied] at h
      exact absurd h (zeros_ne_sealed_layout hrow.opcode)

end yields

/-- Settles O50, by whether BUILD yields the row's frame. -/
theorem frameRowElsewhereIsRefused : Obligations.FrameRowElsewhereIsRefused := by
  intro i s kind b hframe hb
  obtain ⟨f, hrow⟩ := exists_frameRow_of_frameKind hframe
  obtain rfl : sealed (layout f) = b := Encoded.frame.inj (hrow.encode_eq.symm.trans hb)
  refine ⟨fun hkind => hrow.exec_of_not_yields fun h => hkind h.1, fun hkind => ?_⟩
  refine ⟨afterBuild f.op s, exec_build f.op s, ?_⟩
  split
  · next hbytes =>
    have h : Yields kind f s := (hrow.yields_iff hkind).2 hbytes
    rw [hrow.exec_of_yields h, afterBuild_of_yields h]
  · next hbytes => exact hrow.exec_of_not_yields fun h => hbytes ((hrow.yields_iff hkind).1 h)

/-! ## The fields BUILD resolves under each strategy (R132 to R135) -/

section fields

variable {s : State} (op : Byte)

theorem buildFields_counterEcho (h : s.cfg.kind = .counterEcho) :
    buildFields op s = fieldsCe (counter32 s.ports.ctr) op := by
  rw [buildFields, h]; rfl

theorem buildFields_counterWithSignature (h : s.cfg.kind = .counterWithSignature) :
    buildFields op s = fieldsCws (counter32 s.ports.ctr) s.cfg.marker s.cfg.sig
      (bucketValue s.cfg.bucketWidth s.ports.unixTime) op := by
  rw [buildFields, h]; rfl

theorem buildFields_rollingSessionId (h : s.cfg.kind = .rollingSessionId) :
    buildFields op s = fieldsRsi (counterByte s.ports.ctr) (sessionTag s.ports.unixTime) s.ports.utcHour
      s.ports.utcMin op := by
  rw [buildFields, h]; rfl

theorem buildFields_tickOnly (h : s.cfg.kind = .tickOnly) :
    buildFields op s = fieldsTo (counter32 s.ports.ctr) s.ports.utcHour s.ports.utcMin op := by
  rw [buildFields, h]; rfl

/-- The fields BUILD resolves under a legal opcode are those of a row of its strategy. -/
theorem exists_frameRow_buildFields (s : State) (hop : op = 0x01#8 ∨ op = 0x02#8) :
    ∃ i, FrameRow i s.cfg.kind (buildFields op s) := by
  cases h : s.cfg.kind with
  | counterEcho =>
    rw [buildFields_counterEcho op h]
    rcases hop with rfl | rfl
    · exact ⟨_, .ceOpen _⟩
    · exact ⟨_, .ceClose _⟩
  | counterWithSignature =>
    rw [buildFields_counterWithSignature op h]
    rcases hop with rfl | rfl
    · exact ⟨_, .cwsOpen _ _ _ _⟩
    · exact ⟨_, .cwsClose _ _ _ _⟩
  | rollingSessionId =>
    rw [buildFields_rollingSessionId op h]
    rcases hop with rfl | rfl
    · exact ⟨_, .rsiOpen _ _ _ _⟩
    · exact ⟨_, .rsiClose _ _ _ _⟩
  | tickOnly =>
    rw [buildFields_tickOnly op h]
    rcases hop with rfl | rfl
    · exact ⟨_, .toOpen _ _ _⟩
    · exact ⟨_, .toClose _ _ _⟩

end fields

/-- Settles O51. The row is that of the resolved fields, which BUILD yields. -/
theorem everySuccessfulBuildIsAFrameRow : Obligations.EverySuccessfulBuildIsAFrameRow := by
  intro op s t hexec hvalid
  cases (exec_build op s).symm.trans hexec
  have hok : buildError op s = none := (statusFrameValid_afterBuild op s).1 hvalid
  obtain ⟨i, hrow⟩ := exists_frameRow_buildFields op s ((buildError_eq_none_iff op s).1 hok).1
  have hexec : exec i s = .next (afterBuild op s) := by
    rw [hrow.exec_of_yields ⟨rfl, hok, rfl⟩, afterBuild_of_ok hok]
  rw [(afterBuild_of_valid hvalid).2]
  exact ⟨i, hrow.frameKind_eq, hrow.encode_eq, hexec, decodeFrame_eq_ok_iff.2 ⟨_, hrow, rfl⟩⟩

/-! ## Where each strategy yields a row's frame -/

/-- A counter port that holds a 32-bit value passes the range check and gives that value. -/
theorem counter32_of_toNat_eq {c : BitVec 64} {n : BitVec 32} (h : c.toNat = n.toNat) :
    counterFits c = true ∧ counter32 c = n := by
  have hfits : counterFits c = true := decide_eq_true (by omega)
  exact ⟨hfits, BitVec.eq_of_toNat_eq ((counter32_toNat hfits).trans h)⟩

section strategies

variable {s : State} {op hh mm : Byte} {n : BitVec 32}

theorem yields_counterEcho (hop : op = 0x01#8 ∨ op = 0x02#8) (hkind : s.cfg.kind = .counterEcho)
    (hctr : s.ports.ctr.toNat = n.toNat) : Yields .counterEcho (fieldsCe n op) s := by
  obtain ⟨hfits, hn⟩ := counter32_of_toNat_eq hctr
  refine ⟨hkind, (buildError_eq_none_iff op s).2 ⟨hop, fun _ => hfits⟩, ?_⟩
  exact (buildFields_counterEcho op hkind).trans (by rw [hn])

theorem yields_counterWithSignature {m : Bytes4} {g : Bytes2} {v : BitVec 16} (hop : op = 0x01#8 ∨ op = 0x02#8)
    (hkind : s.cfg.kind = .counterWithSignature) (hctr : s.ports.ctr.toNat = n.toNat) (hmarker : s.cfg.marker = m)
    (hsig : s.cfg.sig = g) (hbucket : s.ports.unixTime.toNat / s.cfg.bucketWidth % 65536 = v.toNat) :
    Yields .counterWithSignature (fieldsCws n m g v op) s := by
  obtain ⟨hfits, hn⟩ := counter32_of_toNat_eq hctr
  have hv : bucketValue s.cfg.bucketWidth s.ports.unixTime = v :=
    BitVec.eq_of_toNat_eq ((bucketValue_toNat _ _).trans hbucket)
  refine ⟨hkind, (buildError_eq_none_iff op s).2 ⟨hop, fun _ => hfits⟩, ?_⟩
  exact (buildFields_counterWithSignature op hkind).trans (by rw [hn, hmarker, hsig, hv])

/-- Any counter does: only its low byte is used (R162). -/
theorem yields_rollingSessionId {c : Byte} {t : Bytes3} (hop : op = 0x01#8 ∨ op = 0x02#8)
    (hkind : s.cfg.kind = .rollingSessionId) (hctr : s.ports.ctr.toNat % 256 = c.toNat)
    (htag : sessionTag s.ports.unixTime = t) (hhour : s.ports.utcHour = hh) (hmin : s.ports.utcMin = mm) :
    Yields .rollingSessionId (fieldsRsi c t hh mm op) s := by
  have hc : counterByte s.ports.ctr = c := BitVec.eq_of_toNat_eq ((BitVec.extractLsb'_toNat 0 8 _).trans hctr)
  refine ⟨hkind, (buildError_eq_none_iff op s).2 ⟨hop, by simp [hkind, usesCounter32]⟩, ?_⟩
  exact (buildFields_rollingSessionId op hkind).trans (by rw [hc, htag, hhour, hmin])

theorem yields_tickOnly (hop : op = 0x01#8 ∨ op = 0x02#8) (hkind : s.cfg.kind = .tickOnly)
    (hctr : s.ports.ctr.toNat = n.toNat) (hhour : s.ports.utcHour = hh) (hmin : s.ports.utcMin = mm) :
    Yields .tickOnly (fieldsTo n hh mm op) s := by
  obtain ⟨hfits, hn⟩ := counter32_of_toNat_eq hctr
  refine ⟨hkind, (buildError_eq_none_iff op s).2 ⟨hop, fun _ => hfits⟩, ?_⟩
  exact (buildFields_tickOnly op hkind).trans (by rw [hn, hhour, hmin])

end strategies

/-- Settles O46. -/
theorem counterEchoRowsComplete : Obligations.CounterEchoRowsComplete := by
  intro n s hkind hctr
  exact ⟨(FrameRow.ceOpen n).completesAsRow (yields_counterEcho (.inl rfl) hkind hctr),
    (FrameRow.ceClose n).completesAsRow (yields_counterEcho (.inr rfl) hkind hctr)⟩

/-- Settles O47. -/
theorem counterWithSignatureRowsComplete : Obligations.CounterWithSignatureRowsComplete := by
  intro n m g v s hkind hctr hmarker hsig hbucket
  exact ⟨(FrameRow.cwsOpen n m g v).completesAsRow
      (yields_counterWithSignature (.inl rfl) hkind hctr hmarker hsig hbucket),
    (FrameRow.cwsClose n m g v).completesAsRow
      (yields_counterWithSignature (.inr rfl) hkind hctr hmarker hsig hbucket)⟩

/-- Settles O48. -/
theorem rollingSessionIdRowsComplete : Obligations.RollingSessionIdRowsComplete := by
  intro c t hh mm s hkind hctr htag hhour hmin
  exact ⟨(FrameRow.rsiOpen c t hh mm).completesAsRow (yields_rollingSessionId (.inl rfl) hkind hctr htag hhour hmin),
    (FrameRow.rsiClose c t hh mm).completesAsRow (yields_rollingSessionId (.inr rfl) hkind hctr htag hhour hmin)⟩

/-- Settles O49. -/
theorem tickOnlyRowsComplete : Obligations.TickOnlyRowsComplete := by
  intro n hh mm s hkind hctr hhour hmin
  exact ⟨(FrameRow.toOpen n hh mm).completesAsRow (yields_tickOnly (.inl rfl) hkind hctr hhour hmin),
    (FrameRow.toClose n hh mm).completesAsRow (yields_tickOnly (.inr rfl) hkind hctr hhour hmin)⟩

/-! ## The host's placement of a frame row (log entry 7) -/

/-- A word placed at the head of the stream is what the next step runs. -/
theorem step_present {cw : BitVec 16} {i : Instr} (p : Ports) (s : State) (hd : decodeCommand cw = .ok i) :
    step (present cw p s) = exec i { s with ports := p } := by
  rw [step_of_fetch_command (fetch_of_pending_command (present_pending cw p s)), runWord_of_decode _ hd]
  rfl

/-- The host's counter port holds the row's counter. -/
theorem portsFor_ctr_toNat (n : BitVec 32) (t : BitVec 64) (hh mm : Byte) :
    (portsFor n t hh mm).ctr.toNat = n.toNat := by
  rw [portsFor, BitVec.toNat_setWidth]
  omega

/-- The time the host places for a bucket value lies in that 30-second bucket (R166). -/
theorem bucket_of_placed_time (v : BitVec 16) : (BitVec.ofNat 64 (30 * v.toNat)).toNat / 30 % 65536 = v.toNat := by
  have hlt : v.toNat < 65536 := v.isLt
  have htime : 30 * v.toNat < 2 ^ 64 := by omega
  rw [BitVec.toNat_ofNat, Nat.mod_eq_of_lt htime, Nat.mul_div_cancel_left _ (by decide), Nat.mod_eq_of_lt hlt]

/-- The configuration the host places for a CounterWithSignature row: kind 1, and `BSEL` 0 for 30-second buckets. -/
def placedCfgCws (m : Bytes4) (g : Bytes2) : Cfg := ⟨0x01#8, m.b0, m.b1, m.b2, m.b3, g.b0, g.b1⟩

theorem bucketWidth_placedCfgCws (m : Bytes4) (g : Bytes2) : (placedCfgCws m g).bucketWidth = 30 := by
  have hbsel : ¬ (0x01#8).getLsbD 2 = true := by decide
  exact if_neg hbsel

theorem yields_placed_counterEcho {op : Byte} (hop : op = 0x01#8 ∨ op = 0x02#8) (n : BitVec 32) (s : State) :
    Yields .counterEcho (fieldsCe n op)
      { s with cfg := s.cfg.write 0 0x00#8, ports := portsFor n 0#64 0x00#8 0x00#8 } :=
  yields_counterEcho hop rfl (portsFor_ctr_toNat n _ _ _)

theorem yields_placed_counterWithSignature {op : Byte} (hop : op = 0x01#8 ∨ op = 0x02#8) (n : BitVec 32) (m : Bytes4)
    (g : Bytes2) (v : BitVec 16) (s : State) :
    Yields .counterWithSignature (fieldsCws n m g v op)
      { s with cfg := placedCfgCws m g, ports := portsFor n (BitVec.ofNat 64 (30 * v.toNat)) 0x00#8 0x00#8 } := by
  refine yields_counterWithSignature hop rfl (portsFor_ctr_toNat n _ _ _) rfl rfl ?_
  rw [bucketWidth_placedCfgCws]
  exact bucket_of_placed_time v

theorem yields_placed_tickOnly {op : Byte} (hop : op = 0x01#8 ∨ op = 0x02#8) (n : BitVec 32) (hh mm : Byte)
    (s : State) :
    Yields .tickOnly (fieldsTo n hh mm op)
      { s with cfg := s.cfg.write 0 0x03#8, ports := portsFor n 0#64 hh mm } :=
  yields_tickOnly hop rfl (portsFor_ctr_toNat n _ hh mm) rfl rfl

theorem decodeCommand_build_open : decodeCommand 0x5001#16 = .ok (.build 0x01#8) := by decide

theorem decodeCommand_build_close : decodeCommand 0x5002#16 = .ok (.build 0x02#8) := by decide

/-- The placement of a row is a configuration, port levels and the word of the row's BUILD, and that BUILD yields the
row's frame; under RollingSessionId it need not, since the tag is the digest's. -/
theorem FrameRow.presentRow_eq {i : Instr} {kind : StrategyKind} {f : BodyFields} (hrow : FrameRow i kind f)
    (hkind : kind ≠ .rollingSessionId) (s : State) :
    ∃ (c : Cfg) (p : Ports) (cw : BitVec 16), presentRow i s = present cw p { s with cfg := c } ∧
      decodeCommand cw = .ok (.build f.op) ∧ Yields kind f { s with cfg := c, ports := p } := by
  cases hrow with
  | ceOpen n => exact ⟨_, _, _, rfl, decodeCommand_build_open, yields_placed_counterEcho (.inl rfl) n s⟩
  | ceClose n => exact ⟨_, _, _, rfl, decodeCommand_build_close, yields_placed_counterEcho (.inr rfl) n s⟩
  | cwsOpen n m g v =>
    exact ⟨_, _, _, rfl, decodeCommand_build_open, yields_placed_counterWithSignature (.inl rfl) n m g v s⟩
  | cwsClose n m g v =>
    exact ⟨_, _, _, rfl, decodeCommand_build_close, yields_placed_counterWithSignature (.inr rfl) n m g v s⟩
  | rsiOpen => exact absurd rfl hkind
  | rsiClose => exact absurd rfl hkind
  | toOpen n hh mm => exact ⟨_, _, _, rfl, decodeCommand_build_open, yields_placed_tickOnly (.inl rfl) n hh mm s⟩
  | toClose n hh mm => exact ⟨_, _, _, rfl, decodeCommand_build_close, yields_placed_tickOnly (.inr rfl) n hh mm s⟩

/-- Settles O60. The step runs the placed BUILD, which yields the row's frame. -/
theorem placedFrameRowIsProducedByTheNextStep : Obligations.PlacedFrameRowIsProducedByTheNextStep := by
  intro i s kind hframe hkind
  obtain ⟨f, hrow⟩ := exists_frameRow_of_frameKind hframe
  obtain ⟨c, p, cw, hplaced, hbuild, hyields⟩ := hrow.presentRow_eq hkind s
  have hstep : step (presentRow i s) = .next (filled (layout f) { s with cfg := c, ports := p }) := by
    rw [hplaced, step_present p _ hbuild, exec_build, afterBuild_of_yields hyields]
  refine ⟨_, hstep, ?_, by simp, hyields.1, rfl, rfl⟩
  rw [frameBytes_filled, hrow.encode_eq]

/-! ## The overlap of the strategies' frames (R76) -/

/-- The CounterEcho column of R71 is the other three columns at zero operands. -/
theorem fieldsCe_overlaps (n : BitVec 32) (op : Byte) :
    fieldsCe n op = fieldsTo n 0x00#8 0x00#8 op ∧
    fieldsCe n op = fieldsCws n ⟨0x00#8, 0x00#8, 0x00#8, 0x00#8⟩ ⟨0x00#8, 0x00#8⟩ 0#16 op ∧
    fieldsCe n op = fieldsRsi (le32 n).b0 ⟨(le32 n).b1, (le32 n).b2, (le32 n).b3⟩ 0x00#8 0x00#8 op :=
  ⟨rfl, rfl, rfl⟩

/-- Rows with equal fields have the same bytes. -/
theorem FrameRow.encode_congr {i j : Instr} {kind kind' : StrategyKind} {f f' : BodyFields} (hi : FrameRow i kind f)
    (hj : FrameRow j kind' f') (hf : f = f') : encode i = encode j := by
  rw [hi.encode_eq, hj.encode_eq, hf]

/-- Settles O13. -/
theorem counterEchoFrameIsAFrameOfEveryKind : Obligations.CounterEchoFrameIsAFrameOfEveryKind := by
  intro n
  constructor
  · obtain ⟨hto, hcws, hrsi⟩ := fieldsCe_overlaps n 0x01#8
    exact ⟨(FrameRow.ceOpen n).encode_congr (.toOpen _ _ _) hto,
      (FrameRow.ceOpen n).encode_congr (.cwsOpen _ _ _ _) hcws,
      _, _, (FrameRow.ceOpen n).encode_congr (.rsiOpen _ _ _ _) hrsi⟩
  · obtain ⟨hto, hcws, hrsi⟩ := fieldsCe_overlaps n 0x02#8
    exact ⟨(FrameRow.ceClose n).encode_congr (.toClose _ _ _) hto,
      (FrameRow.ceClose n).encode_congr (.cwsClose _ _ _ _) hcws,
      _, _, (FrameRow.ceClose n).encode_congr (.rsiClose _ _ _ _) hrsi⟩

end Sys2Proof.Machine

namespace Sys2Proof.Machine

/-! ## Reserved words (R88) -/

/-- A word read as `4096 * cmd + 256 * idx + data` is decoded by those three numbers (R78). -/
theorem decodeCommand_of_toNat {cw : BitVec 16} {cmd idx d : Nat} (hcw : cw.toNat = 4096 * cmd + 256 * idx + d)
    (hidx : idx < 16) (hd : d < 256) :
    decodeCommand cw = decodeFields cmd idx (BitVec.ofNat 8 d) := by
  have hc : (cw.extractLsb' 12 4).toNat = cmd := by
    rw [BitVec.extractLsb'_toNat, hcw, Nat.shiftRight_eq_div_pow]
    omega
  have hx : (cw.extractLsb' 8 4).toNat = idx := by
    rw [BitVec.extractLsb'_toNat, hcw, Nat.shiftRight_eq_div_pow]
    omega
  have hdata : cw.extractLsb' 0 8 = BitVec.ofNat 8 d := by
    apply BitVec.eq_of_toNat_eq
    rw [BitVec.extractLsb'_toNat, hcw, BitVec.toNat_ofNat, Nat.shiftRight_zero]
    omega
  rw [decodeCommand, hc, hx, hdata]

theorem ofNat_byte_ne_zero {d : Nat} (hd : d < 256) (h0 : d ≠ 0) : BitVec.ofNat 8 d ≠ 0x00#8 := by
  intro h
  have hn := congrArg BitVec.toNat h
  rw [BitVec.toNat_ofNat, Nat.mod_eq_of_lt hd] at hn
  exact h0 hn

theorem needsNoOperand_of_ne {idx d : Nat} (i : Instr) (hd : d < 256) (h : idx ≠ 0 ∨ d ≠ 0) :
    needsNoOperand idx (BitVec.ofNat 8 d) i = .error .unusedFieldNotZero :=
  if_neg fun ⟨hidx, hzero⟩ => h.elim (fun hne => hne hidx) fun hne => ofNat_byte_ne_zero hd hne hzero

theorem needsNoIdx_of_ne {idx : Nat} (i : Instr) (h : idx ≠ 0) : needsNoIdx idx i = .error .unusedFieldNotZero :=
  if_neg h

theorem decodeFields_of_cmd_ge {cmd : Nat} (idx : Nat) (d : Byte) (h : 7 ≤ cmd) :
    decodeFields cmd idx d = .error .noSuchCommand := by
  obtain ⟨n, rfl⟩ := Nat.exists_eq_add_of_le' h
  rfl

theorem decodeCfgWr_of_idx_ge {idx : Nat} (d : Byte) (h : 7 ≤ idx) :
    decodeCfgWr idx d = .error .noSuchConfigByte := by
  obtain ⟨n, rfl⟩ := Nat.exists_eq_add_of_le' h
  rfl

theorem decodeCfgWr_zero_of_reserved {d : Nat} (hd : d < 256) (h : d / 8 ≠ 0) :
    decodeCfgWr 0 (BitVec.ofNat 8 d) = .error .ctrlReservedBits := by
  have hctrl : ¬ ctrlLegal (BitVec.ofNat 8 d) = true := by
    rw [ctrlLegal, BitVec.toNat_ofNat, Nat.mod_eq_of_lt hd, decide_eq_true_eq]
    omega
  exact if_neg hctrl

theorem step_of_decode_error {s : State} {cw : BitVec 16} {p : Ports} {rest : List Input} {why : Reserved}
    (hp : s.pending = .command cw p :: rest) (hd : decodeCommand cw = .error why) :
    step s = .refused (.reservedWord why) := by
  rw [step_of_fetch_command (fetch_of_pending_command hp), runWord, hd]

/-- Settles O5, row by row of R88's table. -/
theorem everyReservedWordIsRefused : Obligations.EveryReservedWordIsRefused := by
  intro s cw p rest cmd idx d hp hcw _ hidx hd hrow
  suffices herr : ∃ why, decodeFields cmd idx (BitVec.ofNat 8 d) = .error why by
    obtain ⟨why, hwhy⟩ := herr
    exact ⟨why, step_of_decode_error hp ((decodeCommand_of_toNat hcw hidx hd).trans hwhy)⟩
  obtain hge | ⟨hop, hne⟩ | ⟨hop, hne⟩ | ⟨rfl, hge⟩ | ⟨rfl, rfl, hbits⟩ := hrow
  · exact ⟨_, decodeFields_of_cmd_ge idx _ hge⟩
  · obtain rfl | rfl | rfl := hop <;> exact ⟨_, needsNoOperand_of_ne _ hd hne⟩
  · obtain rfl | rfl | rfl := hop <;> exact ⟨_, needsNoIdx_of_ne _ hne⟩
  · exact ⟨_, decodeCfgWr_of_idx_ge _ hge⟩
  · exact ⟨_, decodeCfgWr_zero_of_reserved hd hbits⟩

/-! ## The thirteen command rows (R80 to R82) -/

/-- Two rows that fix a common bit to different values accept no common word. -/
theorem not_accepts_both {r r' : CommandRow} (h : r.bits &&& r'.mask ≠ r'.bits &&& r.mask) (cw : BitVec 16) :
    ¬ (r.accepts cw = true ∧ r'.accepts cw = true) := by
  rintro ⟨hr, hr'⟩
  apply h
  rw [← eq_of_beq hr, ← eq_of_beq hr', BitVec.and_assoc, BitVec.and_assoc, BitVec.and_comm r.mask]

theorem commandRows_pairwise_disjoint :
    commandRows.Pairwise fun r r' => ∀ cw, ¬ (r.accepts cw = true ∧ r'.accepts cw = true) := by
  have hbits : commandRows.Pairwise fun r r' => r.bits &&& r'.mask ≠ r'.bits &&& r.mask := by decide
  exact hbits.imp not_accepts_both

/-- The encoding of each instruction lies in its own row. -/
theorem encodesToRow (i : Instr) : Laws.EncodesToRow.Statement i := by
  cases i with
  | nop => exact Laws.EncodesToRow.nop
  | crcClr => exact Laws.EncodesToRow.crcClr
  | crcUpd d => exact Laws.EncodesToRow.crcUpd d
  | crcCmp d => exact Laws.EncodesToRow.crcCmp d
  | cfgWrCtrl d => exact Laws.EncodesToRow.cfgWrCtrl d
  | cfgWrMarker0 d => exact Laws.EncodesToRow.cfgWrMarker0 d
  | cfgWrMarker1 d => exact Laws.EncodesToRow.cfgWrMarker1 d
  | cfgWrMarker2 d => exact Laws.EncodesToRow.cfgWrMarker2 d
  | cfgWrMarker3 d => exact Laws.EncodesToRow.cfgWrMarker3 d
  | cfgWrSig0 d => exact Laws.EncodesToRow.cfgWrSig0 d
  | cfgWrSig1 d => exact Laws.EncodesToRow.cfgWrSig1 d
  | build op => exact Laws.EncodesToRow.build op
  | release => exact Laws.EncodesToRow.release
  | frameCeOpen n => exact Laws.EncodesToRow.frameCeOpen n
  | frameCeClose n => exact Laws.EncodesToRow.frameCeClose n
  | frameCwsOpen n m g v => exact Laws.EncodesToRow.frameCwsOpen n m g v
  | frameCwsClose n m g v => exact Laws.EncodesToRow.frameCwsClose n m g v
  | frameRsiOpen c t hh mm => exact Laws.EncodesToRow.frameRsiOpen c t hh mm
  | frameRsiClose c t hh mm => exact Laws.EncodesToRow.frameRsiClose c t hh mm
  | frameToOpen n hh mm => exact Laws.EncodesToRow.frameToOpen n hh mm
  | frameToClose n hh mm => exact Laws.EncodesToRow.frameToClose n hh mm

/-- A word that decodes has the pattern of its instruction's row. -/
theorem exists_row_of_decodeCommand {cw : BitVec 16} {i : Instr} (h : decodeCommand cw = .ok i) :
    ∃ r ∈ commandRows, r.accepts cw = true ∧ r.mnemonic = i.mnemonic := by
  have hrow := encodesToRow i (wellFormed_of_decodeCommand h)
  rw [encode_of_decodeCommand h] at hrow
  obtain ⟨-, r, hr, hname, haccepts⟩ := hrow
  exact ⟨r, hr, haccepts, hname⟩

/-- A row fixes the whole of `cmd` and `idx`, and of `data` the bits of its mask. -/
theorem fields_of_accepts {r : CommandRow} {cw : BitVec 16} (hr : r ∈ commandRows) (h : r.accepts cw = true) :
    cw.extractLsb' 12 4 = r.bits.extractLsb' 12 4 ∧ cw.extractLsb' 8 4 = r.bits.extractLsb' 8 4 ∧
      cw.extractLsb' 0 8 &&& r.mask.extractLsb' 0 8 = r.bits.extractLsb' 0 8 := by
  have hmask : ∀ r ∈ commandRows, r.mask.extractLsb' 12 4 = BitVec.allOnes 4 ∧
      r.mask.extractLsb' 8 4 = BitVec.allOnes 4 := by decide
  obtain ⟨hcmd, hidx⟩ := hmask r hr
  refine ⟨?_, ?_, ?_⟩
  · rw [← eq_of_beq h, BitVec.extractLsb'_and, hcmd, BitVec.and_allOnes]
  · rw [← eq_of_beq h, BitVec.extractLsb'_and, hidx, BitVec.and_allOnes]
  · rw [← eq_of_beq h, BitVec.extractLsb'_and]

theorem eq_zero_of_and_full_mask {d : Byte} (h : d &&& 0xFF#8 = 0x00#8) : d = 0x00#8 := by
  revert d; decide

theorem ctrlLegal_of_and_mask {d : Byte} (h : d &&& 0xF8#8 = 0x00#8) : ctrlLegal d = true := by
  revert d; decide

/-- A row's `cmd` and `idx`, with any data byte that its mask allows, decode to an instruction of the row. -/
theorem decodeFields_of_row {r : CommandRow} (hr : r ∈ commandRows) {d : Byte}
    (hd : d &&& r.mask.extractLsb' 0 8 = r.bits.extractLsb' 0 8) :
    ∃ i, decodeFields (r.bits.extractLsb' 12 4).toNat (r.bits.extractLsb' 8 4).toNat d = .ok i ∧
      i.mnemonic = r.mnemonic := by
  simp only [commandRows, List.mem_cons, List.not_mem_nil, or_false] at hr
  obtain rfl | rfl | rfl | rfl | rfl | rfl | rfl | rfl | rfl | rfl | rfl | rfl | rfl := hr
  · obtain rfl := eq_zero_of_and_full_mask hd; exact ⟨.nop, rfl, rfl⟩
  · obtain rfl := eq_zero_of_and_full_mask hd; exact ⟨.crcClr, rfl, rfl⟩
  · exact ⟨.crcUpd d, rfl, rfl⟩
  · exact ⟨.crcCmp d, rfl, rfl⟩
  · exact ⟨.cfgWrCtrl d, decodeCfgWr_zero_eq_ok_iff.2 ⟨ctrlLegal_of_and_mask hd, rfl⟩, rfl⟩
  · exact ⟨.cfgWrMarker0 d, rfl, rfl⟩
  · exact ⟨.cfgWrMarker1 d, rfl, rfl⟩
  · exact ⟨.cfgWrMarker2 d, rfl, rfl⟩
  · exact ⟨.cfgWrMarker3 d, rfl, rfl⟩
  · exact ⟨.cfgWrSig0 d, rfl, rfl⟩
  · exact ⟨.cfgWrSig1 d, rfl, rfl⟩
  · exact ⟨.build d, rfl, rfl⟩
  · obtain rfl := eq_zero_of_and_full_mask hd; exact ⟨.release, rfl, rfl⟩

/-- A word with a row's pattern decodes to an instruction of that row. -/
theorem exists_decodeCommand_of_accepts {r : CommandRow} {cw : BitVec 16} (hr : r ∈ commandRows)
    (h : r.accepts cw = true) : ∃ i, decodeCommand cw = .ok i ∧ i.mnemonic = r.mnemonic := by
  obtain ⟨hcmd, hidx, hdata⟩ := fields_of_accepts hr h
  rw [decodeCommand, hcmd, hidx]
  exact decodeFields_of_row hr hdata

/-- Settles O6. -/
theorem wordIsLegalExactlyWhenOneRowMatches : Obligations.WordIsLegalExactlyWhenOneRowMatches :=
  ⟨commandRows_pairwise_disjoint, fun _ _ => exists_row_of_decodeCommand,
    fun _ _ => exists_decodeCommand_of_accepts⟩

/-! ## The number of legal words (R82) -/

/-- A count over `m * n` numbers, taken in `m` blocks of `n`. -/
theorem countP_range_mul (p : Nat → Bool) (m n : Nat) :
    (List.range (m * n)).countP p
      = ((List.range m).map fun a => (List.range n).countP fun b => p (n * a + b)).sum := by
  induction m with
  | zero => simp
  | succ m ih =>
    rw [Nat.succ_mul, List.range_add, List.countP_append, ih, List.range_succ, List.map_append, List.sum_append,
      List.countP_map]
    simp [Function.comp_def, Nat.mul_comm]

/-- How many data bytes are legal under a `cmd` and an `idx`: R82's summands. -/
def dataCount (cmd idx : Nat) : Nat :=
  match cmd with
  | 0 => if idx = 0 then 1 else 0
  | 1 => if idx = 0 then 1 else 0
  | 2 => if idx = 0 then 256 else 0
  | 3 => if idx = 0 then 256 else 0
  | 4 => if idx = 0 then 8 else if idx < 7 then 256 else 0
  | 5 => if idx = 0 then 256 else 0
  | 6 => if idx = 0 then 1 else 0
  | _ => 0

/-- Whether the decoder finds an instruction. -/
def decodes (x : Except Reserved Instr) : Bool := x.toOption.isSome

theorem countP_needsNoOperand (idx : Nat) (i : Instr) :
    (List.range 256).countP (fun d => decodes (needsNoOperand idx (BitVec.ofNat 8 d) i))
      = if idx = 0 then 1 else 0 := by
  split
  · next h0 =>
    subst h0
    have hone : ∀ d, decodes (needsNoOperand 0 (BitVec.ofNat 8 d) i) = decide (BitVec.ofNat 8 d = 0x00#8) := by
      intro d
      by_cases hd : BitVec.ofNat 8 d = 0x00#8 <;> simp [needsNoOperand, decodes, Except.toOption, hd]
    simp only [hone]
    decide +kernel
  · next hne => simp [needsNoOperand, hne, decodes, Except.toOption]

theorem countP_needsNoIdx (idx : Nat) (i : Byte → Instr) :
    (List.range 256).countP (fun d => decodes (needsNoIdx idx (i (BitVec.ofNat 8 d))))
      = if idx = 0 then 256 else 0 := by
  split
  · next h0 => simp [needsNoIdx, h0, decodes, Except.toOption]
  · next hne => simp [needsNoIdx, hne, decodes, Except.toOption]

theorem countP_decodeCfgWr (idx : Nat) :
    (List.range 256).countP (fun d => decodes (decodeCfgWr idx (BitVec.ofNat 8 d)))
      = if idx = 0 then 8 else if idx < 7 then 256 else 0 := by
  split
  · next h0 => subst h0; decide +kernel
  · split
    · next hne hlt =>
      apply (List.countP_eq_length.2 fun d _ => ?_).trans List.length_range
      interval_cases idx
      · exact absurd rfl hne
      all_goals rfl
    · next hne hge =>
      have hidx : 7 ≤ idx := by omega
      simp [decodeCfgWr_of_idx_ge _ hidx, decodes, Except.toOption]

theorem countP_decodeFields (cmd idx : Nat) :
    (List.range 256).countP (fun d => decodes (decodeFields cmd idx (BitVec.ofNat 8 d))) = dataCount cmd idx := by
  unfold decodeFields dataCount
  split
  · exact countP_needsNoOperand idx _
  · exact countP_needsNoOperand idx _
  · exact countP_needsNoIdx idx _
  · exact countP_needsNoIdx idx _
  · exact countP_decodeCfgWr idx
  · exact countP_needsNoIdx idx _
  · exact countP_needsNoOperand idx _
  · simp [decodes, Except.toOption]

/-- The host's question about a word is the decoder's answer to its three fields. -/
theorem decodeTableWord_isSome {cmd idx d : Nat} (hcmd : cmd < 16) (hidx : idx < 16) (hd : d < 256) :
    (decodeTableWord 16 (4096 * cmd + (256 * idx + d))).isSome = decodes (decodeFields cmd idx (BitVec.ofNat 8 d)) := by
  have hcw : (BitVec.ofNat 16 (4096 * cmd + (256 * idx + d))).toNat = 4096 * cmd + 256 * idx + d := by
    rw [BitVec.toNat_ofNat]
    omega
  rw [decodes, ← decodeCommand_of_toNat hcw hidx hd]
  rfl

/-- Under one `idx` of one command. -/
theorem countP_words_of_code {cmd idx : Nat} (hcmd : cmd < 16) (hidx : idx < 16) :
    (List.range 256).countP (fun d => (decodeTableWord 16 (4096 * cmd + (256 * idx + d))).isSome)
      = dataCount cmd idx := by
  rw [← countP_decodeFields]
  refine List.countP_congr fun d hd => ?_
  rw [decodeTableWord_isSome hcmd hidx (List.mem_range.1 hd)]

/-- Under one command. -/
theorem countP_words_of_cmd {cmd : Nat} (hcmd : cmd < 16) :
    (List.range 4096).countP (fun w => (decodeTableWord 16 (4096 * cmd + w)).isSome)
      = ((List.range 16).map (dataCount cmd)).sum := by
  rw [show 4096 = 16 * 256 from rfl, countP_range_mul]
  exact congrArg List.sum (List.map_congr_left fun idx hidx => countP_words_of_code hcmd (List.mem_range.1 hidx))

/-- Settles O7. The words are counted by `cmd`, then by `idx`; what is left is R82's sum. -/
theorem legalWordsNumber2315 : Obligations.LegalWordsNumber2315 := by
  have hcount : (List.range (16 * 4096)).countP (fun w => (decodeTableWord 16 w).isSome)
      = ((List.range 16).map fun cmd => ((List.range 16).map (dataCount cmd)).sum).sum := by
    rw [countP_range_mul]
    exact congrArg List.sum (List.map_congr_left fun cmd hcmd => countP_words_of_cmd (List.mem_range.1 hcmd))
  exact List.countP_eq_length_filter.symm.trans (hcount.trans (by decide))

/-! ## Words written out -/

/-- Settles O12. Each written word is the encoding of its instruction; `4008` and the S3 frame are the model's tests. -/
theorem writtenWordsDecode : Obligations.WrittenWordsDecode :=
  ⟨decodeCommand_of_encode rfl rfl, decodeCommand_of_encode rfl rfl, decodeCommand_of_encode rfl rfl,
    decodeCommand_of_encode rfl rfl, decodeCommand_of_encode rfl rfl, decodeCommand_of_encode rfl rfl,
    decodeCommand_of_encode rfl rfl, decodeCommand_of_encode rfl rfl, decodeCommand_of_encode rfl rfl,
    Tests.test_decode_refuses_ctrl_08, Tests.test_decode_frameToOpen⟩

end Sys2Proof.Machine

namespace Sys2Proof.Machine

/-! ## Runs of a command stream -/

theorem andThen_assoc (o : Result) (f g : State → Result) :
    andThen (andThen o f) g = andThen o fun s => andThen (f s) g := by
  cases o <;> rfl

theorem andThen_next_right (o : Result) : andThen o .next = o := by
  cases o <;> rfl

theorem steps_add (m n : Nat) (s : State) : steps (m + n) s = andThen (steps m s) (steps n) := by
  induction m generalizing s with
  | zero => rw [Nat.zero_add]; rfl
  | succ m ih =>
    have htail : steps (m + n) = fun u => andThen (steps m u) (steps n) := funext ih
    rw [Nat.succ_add, steps, htail, steps, andThen_assoc]

/-- The first entry of a stream, and then the rest. -/
theorem steps_given_cons {x : Input} {l : List Input} {s t : State} (k : Nat)
    (h : step (s.given (x :: l)) = .next (t.given l)) : steps (k + 1) (s.given (x :: l)) = steps k (t.given l) := by
  rw [steps, h, andThen_next]

/-- An issued command drives its port levels and runs before the rest of the stream (R6, R28). -/
theorem step_given_issue {c x : BitVec 4} {d : Byte} {i : Instr} (p : Ports) (l : List Input) (s : State)
    (hd : decodeCommand (commandWord c x d) = .ok i) :
    step (s.given (issue p c x d :: l)) = exec i (({ s with ports := p } : State).given l) := by
  rw [step_of_fetch_command (fetch_of_pending_command (s := s.given (issue p c x d :: l)) rfl), runWord_of_decode _ hd]
  rfl

/-- A stream of one command is that command. -/
theorem steps_one_given_issue {c x : BitVec 4} {d : Byte} {i : Instr} (p : Ports) (s : State)
    (hd : decodeCommand (commandWord c x d) = .ok i) :
    steps 1 (s.given [issue p c x d]) = exec i { s with ports := p } :=
  (andThen_next_right _).trans (step_given_issue p [] s hd)

/-! ## CHECKSUM and VERIFY (R84, R85) -/

/-- A run of CRC_UPD folds its bytes into `ACC` (R107). -/
theorem steps_updStream (p : Ports) (bytes : List Byte) (l : List Input) (s : State) :
    steps bytes.length (({ s with ports := p } : State).given (updStream p bytes ++ l))
      = .next (({ s with ports := p, acc := crc8From s.acc bytes } : State).given l) := by
  induction bytes generalizing s with
  | nil => rfl
  | cons d bytes ih =>
    have hstep : step (({ s with ports := p } : State).given (issue p 0x2#4 0x0#4 d :: (updStream p bytes ++ l)))
        = .next (({ s with ports := p, acc := crc8Step s.acc d } : State).given (updStream p bytes ++ l)) :=
      step_given_issue (i := .crcUpd d) p _ _ (decodeCommand_of_encode rfl rfl)
    exact (steps_given_cons bytes.length hstep).trans (ih { s with acc := crc8Step s.acc d })

/-- CHECKSUM changes `ACC` and the port levels, and leaves what the host has pending after it. -/
theorem steps_checksumStream (p : Ports) (bytes : List Byte) (l : List Input) (s : State) :
    steps (bytes.length + 1) (s.given (checksumStream p bytes ++ l))
      = .next (({ s with ports := p, acc := crc8 bytes } : State).given l) := by
  have hclear : step (s.given (issue p 0x1#4 0x0#4 0x00#8 :: (updStream p bytes ++ l)))
      = .next (({ s with ports := p, acc := 0x00#8 } : State).given (updStream p bytes ++ l)) :=
    step_given_issue (i := .crcClr) p _ s (decodeCommand_of_encode rfl rfl)
  exact (steps_given_cons bytes.length hclear).trans (steps_updStream p bytes l { s with acc := 0x00#8 })

/-- Settles O18. -/
theorem checksumMacroLeavesTheChecksum : Obligations.ChecksumMacroLeavesTheChecksum := by
  intro s p bytes
  have hrun := steps_checksumStream p bytes [] s
  rw [List.append_nil] at hrun
  exact ⟨_, hrun, rfl, rfl, rfl, rfl, rfl⟩

/-- VERIFY is CHECKSUM followed by the comparison of the last byte. -/
theorem steps_verifyStream (p : Ports) (bytes : List Byte) (last : Byte) (s : State) :
    steps (bytes.length + 2) (s.given (verifyStream p bytes last))
      = exec (.crcCmp last) { s with ports := p, acc := crc8 bytes } := by
  have hcompare : decodeCommand (commandWord 0x3#4 0x0#4 last) = .ok (.crcCmp last) := decodeCommand_of_encode rfl rfl
  rw [verifyStream, steps_add (bytes.length + 1) 1, steps_checksumStream, andThen_next,
    steps_one_given_issue p _ hcompare]

/-- Settles O20, by the two answers of CRC_CMP. -/
theorem verifyMacroAnswersTheComparison : Obligations.VerifyMacroAnswersTheComparison := by
  intro s p bytes last
  have hrun := steps_verifyStream p bytes last s
  by_cases heq : crc8 bytes = last
  · refine ⟨_, hrun.trans (if_pos heq), ?_, ?_, rfl, rfl, rfl⟩ <;> simp [heq]
  · refine ⟨_, hrun.trans (if_neg heq), ?_, ?_, rfl, rfl, rfl⟩ <;> simp [heq, errCode]

/-! ## CONFIG (R86) -/

theorem ctrlByte_legal (kind : StrategyKind) (bsel : Bool) : ctrlLegal (ctrlByte kind bsel) = true := by
  cases kind <;> cases bsel <;> decide

/-- The `CTRL` byte that CONFIG writes holds the kind and the width bit it is made of (R23). -/
theorem fields_of_ctrlByte {c : Cfg} {kind : StrategyKind} {bsel : Bool} (h : c.ctrl = ctrlByte kind bsel) :
    c.kind = kind ∧ c.bsel = bsel := by
  rw [Cfg.kind, Cfg.bsel, h]
  cases kind <;> cases bsel <;> decide

/-- One command of CONFIG: its byte of `CFG` is written before the rest of the stream. -/
theorem steps_given_cfgWr {x : BitVec 4} {i : Instr} {k : Nat} {d : Byte} (n : Nat) (p : Ports) (l : List Input)
    (s : State) (hwf : i.WellFormed) (hcw : encode i = .command (commandWord 0x4#4 x d))
    (he : ∀ u, exec i u = .next (writeCfg k d u)) :
    steps (n + 1) (s.given (issue p 0x4#4 x d :: l)) = steps n ((writeCfg k d { s with ports := p }).given l) :=
  steps_given_cons n ((step_given_issue p l s (decodeCommand_of_encode hwf hcw)).trans (he _))

/-- CONFIG writes the seven bytes of `CFG`, `CTRL` last, and nothing else but the port levels. -/
theorem steps_configStream (p : Ports) (kind : StrategyKind) (bsel : Bool) (m : Bytes4) (g : Bytes2) (s : State) :
    steps 7 (s.given (configStream p kind bsel m g))
      = .next { s with ports := p, cfg := ⟨ctrlByte kind bsel, m.b0, m.b1, m.b2, m.b3, g.b0, g.b1⟩ } := by
  have hlegal := ctrlByte_legal kind bsel
  rw [configStream, steps_given_cfgWr (i := .cfgWrMarker0 m.b0) 6 p _ _ rfl rfl fun _ => rfl,
    steps_given_cfgWr (i := .cfgWrMarker1 m.b1) 5 p _ _ rfl rfl fun _ => rfl,
    steps_given_cfgWr (i := .cfgWrMarker2 m.b2) 4 p _ _ rfl rfl fun _ => rfl,
    steps_given_cfgWr (i := .cfgWrMarker3 m.b3) 3 p _ _ rfl rfl fun _ => rfl,
    steps_given_cfgWr (i := .cfgWrSig0 g.b0) 2 p _ _ rfl rfl fun _ => rfl,
    steps_given_cfgWr (i := .cfgWrSig1 g.b1) 1 p _ _ rfl rfl fun _ => rfl,
    steps_given_cfgWr (i := .cfgWrCtrl (ctrlByte kind bsel)) 0 p _ _ hlegal rfl fun _ => if_pos hlegal]
  rfl

/-- Settles O57. -/
theorem configMacroWritesTheConfiguration : Obligations.ConfigMacroWritesTheConfiguration := by
  intro s p kind bsel m g
  refine ⟨_, steps_configStream p kind bsel m g s, ?kind, ?bsel, rfl, rfl, rfl, rfl, rfl, rfl⟩
  case kind => exact (fields_of_ctrlByte rfl).1
  case bsel => exact (fields_of_ctrlByte rfl).2

/-! ## SEND (R87) -/

/-- BUILD reports `ERR` 0 exactly when it makes a frame. -/
theorem statusErr_afterBuild_eq_zero_iff (op : Byte) (s : State) :
    statusErr (afterBuild op s).status = 0#2 ↔ buildError op s = none := by
  obtain ⟨-, herr⟩ | ⟨-, -, -, herr⟩ | ⟨-, -, hok⟩ := buildError_cases op s
  · simp [afterBuild_of_error herr, herr, errCode]
  · simp [afterBuild_of_error herr, herr, errCode]
  · simp [afterBuild_of_ok hok, hok]

theorem handOver_of_valid {s : State} (h : statusFrameValid s.status = true) :
    handOver s = some (frameBytes s.frame) := if_pos h

theorem handOver_of_not_valid {s : State} (h : ¬ statusFrameValid s.status = true) : handOver s = none := if_neg h

/-- Settles O58, by whether the BUILD makes a frame. -/
theorem sendHandsOverOneFrameAtMost : Obligations.SendHandsOverOneFrameAtMost := by
  intro s p op
  have hvalid := statusFrameValid_afterBuild op { s with ports := p }
  have herr := statusErr_afterBuild_eq_zero_iff op { s with ports := p }
  generalize hu : afterBuild op { s with ports := p } = t at hvalid herr
  have hbuild : steps 1 (s.given (sendBuild p op)) = .next t := by
    rw [sendBuild, steps_one_given_issue (i := .build op) p s (decodeCommand_of_encode rfl rfl), exec_build, hu]
  refine ⟨t, hbuild, fun hok => ?sent, fun hne => ?nothing⟩
  case sent =>
    have hover : handOver t = some (frameBytes t.frame) := handOver_of_valid (hvalid.2 (herr.1 hok))
    have hrest : sendRest p t = (some (frameBytes t.frame), [issue p 0x6#4 0x0#4 0x00#8]) := if_pos hok
    have hrelease : steps 1 (t.given [issue p 0x6#4 0x0#4 0x00#8]) = .next (emptied { t with ports := p }) := by
      rw [steps_one_given_issue (i := .release) p t (decodeCommand_of_encode rfl rfl)]
      exact discardFrame_eq _
    rw [hrest, hover]
    exact ⟨rfl, rfl, _, hrelease, frameBytes_emptied _, handOver_of_not_valid (by simp)⟩
  case nothing =>
    exact ⟨if_neg hne, handOver_of_not_valid fun hv => hne (herr.2 (hvalid.1 hv))⟩

end Sys2Proof.Machine

namespace Sys2Proof.Machine

/-! ## The shift iteration on unsigned integers

One shift iteration of R100 needs no bound on its argument. A whole frame, read as the number whose bit `j` is stream
position `j`, can stand in the register at once: `crc8` is then one shift per bit of the frame
(`toNat_crc8From_bytesOfNat`), and the error patterns of R113 are numbers that shift down to a byte or to 0. -/

theorem shiftNat_eq (r : Nat) : shiftNat r = r / 2 ^^^ (if r % 2 = 1 then 0x8C else 0) := by
  rw [shiftNat]
  split <;> simp

theorem shiftNat_of_odd {r : Nat} (h : r % 2 = 1) : shiftNat r = r / 2 ^^^ 0x8C := if_pos h

theorem shiftNat_of_even {r : Nat} (h : r % 2 = 0) : shiftNat r = r / 2 := if_neg (by omega)

theorem shiftNat_two_mul (n : Nat) : shiftNat (2 * n) = n := by
  rw [shiftNat_of_even (Nat.mul_mod_right 2 n), Nat.mul_div_cancel_left n (by decide)]

/-- The shift is linear: the register is halved bit by bit, and two xors with the polynomial cancel (R103). -/
theorem shiftNat_xor (a b : Nat) : shiftNat (a ^^^ b) = shiftNat a ^^^ shiftNat b := by
  have hhalf : (a ^^^ b) / 2 = a / 2 ^^^ b / 2 := Nat.xor_div_two
  have hlow : (a ^^^ b) % 2 = (a % 2 + b % 2) % 2 := by rw [Nat.xor_mod_two_eq, Nat.add_mod]
  obtain ha | ha := Nat.mod_two_eq_zero_or_one a <;> obtain hb | hb := Nat.mod_two_eq_zero_or_one b <;>
    simp [shiftNat_eq, hhalf, hlow, ha, hb, Nat.xor_assoc, Nat.xor_comm, Nat.xor_left_comm]

/-- Only 0 and the full polynomial, bits 0, 3, 4, 8, shift to 0. -/
theorem shiftNat_eq_zero_iff {r : Nat} : shiftNat r = 0 ↔ r = 0 ∨ r = 0x119 := by
  obtain h | h := Nat.mod_two_eq_zero_or_one r
  · rw [shiftNat_of_even h]
    omega
  · rw [shiftNat_of_odd h, Nat.xor_eq_zero_iff]
    omega

theorem shiftNat_lt {r : Nat} (h : r < 512) : shiftNat r < 256 := by
  rw [shiftNat_eq]
  exact Nat.xor_lt_two_pow (n := 8) (by omega) (by split <;> decide)

theorem iterate_shiftNat_xor (n a b : Nat) : shiftNat^[n] (a ^^^ b) = shiftNat^[n] a ^^^ shiftNat^[n] b := by
  induction n generalizing a b with
  | zero => rfl
  | succ n ih => rw [Function.iterate_succ_apply, shiftNat_xor, ih]; rfl

/-- Bits above the first `n` come down unchanged in `n` shifts. -/
theorem iterate_shiftNat_mul_two_pow (n b : Nat) : shiftNat^[n] (b * 2 ^ n) = b := by
  induction n with
  | zero => exact Nat.mul_one b
  | succ n ih =>
    have hdouble : b * 2 ^ (n + 1) = 2 * (b * 2 ^ n) := by ring
    rw [Function.iterate_succ_apply, hdouble, shiftNat_two_mul, ih]

theorem iterate_shiftNat_lt (n : Nat) {r : Nat} (h : r < 256) : shiftNat^[n] r < 256 := by
  induction n generalizing r with
  | zero => exact h
  | succ n ih => exact ih (shiftNat_lt (by omega))

/-- No byte but 0 ever shifts to 0. -/
theorem iterate_shiftNat_eq_zero_iff (n : Nat) {r : Nat} (h : r < 256) : shiftNat^[n] r = 0 ↔ r = 0 := by
  induction n generalizing r with
  | zero => rfl
  | succ n ih =>
    rw [Function.iterate_succ_apply, ih (shiftNat_lt (by omega)), shiftNat_eq_zero_iff]
    omega

/-! ## The checksum functions as shifts -/

@[simp] theorem toNat_crc8Shift (r : Byte) : (crc8Shift r).toNat = shiftNat r.toNat := by
  have hlow : r.getLsbD 0 = decide (r.toNat % 2 = 1) := by rw [← BitVec.testBit_toNat, Nat.testBit_zero]
  have hhalf : (r >>> 1).toNat = r.toNat / 2 := by rw [BitVec.toNat_ushiftRight, Nat.shiftRight_one]
  rw [crc8Shift, shiftNat, hlow]
  split <;> simp_all

@[simp] theorem toNat_crc8Rounds (n : Nat) (r : Byte) : (crc8Rounds n r).toNat = shiftNat^[n] r.toNat := by
  induction n generalizing r with
  | zero => rfl
  | succ n ih => rw [crc8Rounds, ih, toNat_crc8Shift]; rfl

theorem toNat_crc8Step (a d : Byte) : (crc8Step a d).toNat = shiftNat^[8] (a.toNat ^^^ d.toNat) := by
  rw [crc8Step_eq, toNat_crc8Rounds, BitVec.toNat_xor]

theorem crc8Rounds_xor (n : Nat) (a b : Byte) : crc8Rounds n (a ^^^ b) = crc8Rounds n a ^^^ crc8Rounds n b :=
  BitVec.eq_of_toNat_eq (by simp [iterate_shiftNat_xor])

theorem crc8Rounds_eq_zero_iff (n : Nat) {r : Byte} : crc8Rounds n r = 0x00#8 ↔ r = 0x00#8 := by
  rw [BitVec.toNat_eq, toNat_crc8Rounds, BitVec.toNat_eq]
  exact iterate_shiftNat_eq_zero_iff n r.isLt

theorem crc8Rounds_inj {n : Nat} {a b : Byte} : crc8Rounds n a = crc8Rounds n b ↔ a = b := by
  rw [← BitVec.xor_eq_zero_iff, ← crc8Rounds_xor, crc8Rounds_eq_zero_iff, BitVec.xor_eq_zero_iff]

/-- The step is linear in register and data byte together (R103, R111). -/
theorem crc8Step_xor (a b c d : Byte) : crc8Step (a ^^^ b) (c ^^^ d) = crc8Step a c ^^^ crc8Step b d := by
  have hpair : a ^^^ b ^^^ (c ^^^ d) = (a ^^^ c) ^^^ (b ^^^ d) := by ac_rfl
  rw [crc8Step_eq, hpair, crc8Rounds_xor]
  rfl

@[simp] theorem crc8Step_left_inj {a b d : Byte} : crc8Step a d = crc8Step b d ↔ a = b := by
  rw [crc8Step_eq, crc8Step_eq, crc8Rounds_inj, BitVec.xor_left_inj]

@[simp] theorem crc8Step_right_inj {a c d : Byte} : crc8Step a c = crc8Step a d ↔ c = d := by
  rw [crc8Step_eq, crc8Step_eq, crc8Rounds_inj, BitVec.xor_right_inj]

theorem crc8Step_eq_zero_iff {a d : Byte} : crc8Step a d = 0x00#8 ↔ d = a := by
  rw [← crc8Step_self a, crc8Step_right_inj]

/-! ## The commands of the checksum engine -/

/-- Settles O14. -/
theorem crcClearZeroesTheAccumulator : Obligations.CrcClearZeroesTheAccumulator := fun _ => rfl

/-- Settles O15. The register of 8 bits holds the integer that the shifts of R100 give. -/
theorem crcUpdateShiftsEightTimes : Obligations.CrcUpdateShiftsEightTimes :=
  fun d s => ⟨_, rfl, rfl, toNat_crc8Step s.acc d⟩

/-- Settles O17, by the two answers of CRC_CMP. -/
theorem crcCompareReportsTheMatch : Obligations.CrcCompareReportsTheMatch := by
  intro d s
  by_cases heq : s.acc = d
  · refine ⟨_, if_pos heq, fun _ => ?_, fun hne => absurd heq hne, ?_, ?_, rfl⟩ <;> simp
  · refine ⟨_, if_neg heq, fun h => absurd h heq, fun _ => ?_, ?_, ?_, rfl⟩ <;> simp [errCode, errFieldCode]

/-! ## The combinational form (R103) -/

@[simp] theorem getLsbD_eight (r : Byte) : r.getLsbD 8 = false := BitVec.getLsbD_of_ge r 8 (le_refl 8)

/-- The bits of one shift: bit 0 leaves at the bottom and enters again at the terms of the polynomial. -/
theorem getLsbD_crc8Shift (r : Byte) {k : Nat} (hk : k < 8) :
    (crc8Shift r).getLsbD k = (r.getLsbD (k + 1) ^^ (r.getLsbD 0 && (k == 2 || k == 3 || k == 7))) := by
  have hpoly : (0x8C#8).getLsbD k = (k == 2 || k == 3 || k == 7) := by
    interval_cases k <;> rfl
  rw [crc8Shift, ← hpoly, Nat.add_comm k 1]
  split <;> simp_all

/-- Settles O16. Each bit is followed through eight shifts; what has entered it twice cancels. -/
theorem crcUpdateIsTheCombinationalForm : Obligations.CrcUpdateIsTheCombinationalForm := by
  refine fun d s => ⟨_, rfl, ?_⟩
  rintro x rfl
  rw [writeAcc_acc, crc8Step_eq]
  simp only [crc8Rounds, getLsbD_crc8Shift, getLsbD_eight, Nat.reduceAdd, Nat.reduceLT, Nat.reduceBEq, Bool.or_true,
    Bool.or_false, Bool.and_true, Bool.and_false, Bool.xor_false, Bool.false_xor]
  refine ⟨?_, ?_, ?_, ?_, ?_, ?_, ?_, ?_⟩ <;> grind

/-! ## Algebra of the checksum (R110 to R112) -/

/-- Settles O22. -/
theorem residueIsZeroExactlyForTheChecksum : Obligations.ResidueIsZeroExactlyForTheChecksum := by
  refine ⟨fun a d => crc8Step_eq_zero_iff, crc8_sealed, fun s d => ?appended⟩
  rw [crc8_append, crc8From_cons, crc8From_nil, crc8Step_eq_zero_iff, eq_comm]

theorem crc8From_zipWith_xor {s t : List Byte} (a b : Byte) (h : s.length = t.length) :
    crc8From (a ^^^ b) (List.zipWith (· ^^^ ·) s t) = crc8From a s ^^^ crc8From b t := by
  induction s generalizing t a b with
  | nil =>
    cases t with
    | nil => rfl
    | cons d t => cases h
  | cons c s ih =>
    cases t with
    | nil => cases h
    | cons d t =>
      rw [List.zipWith_cons_cons, crc8From_cons, crc8Step_xor, ih _ _ (Nat.succ.inj h)]
      rfl

/-- Settles O23, by induction on the two sequences from any two register values. -/
theorem checksumIsLinear : Obligations.ChecksumIsLinear := by
  have hlinear (s t : List Byte) (h : s.length = t.length) :
      crc8 (List.zipWith (· ^^^ ·) s t) = crc8 s ^^^ crc8 t := crc8From_zipWith_xor 0x00#8 0x00#8 h
  refine ⟨hlinear, fun s e h hs => ?corrupted⟩
  rw [hlinear s e h, hs, BitVec.zero_xor]

theorem crc8From_zero_zeros (k : Nat) : crc8From 0x00#8 (zeros k) = 0x00#8 := by
  induction k with
  | zero => rfl
  | succ k ih => rw [zeros, List.replicate_succ, crc8From_cons, crc8Step_self, ih]

/-- Settles O24. -/
theorem leadingZerosAreInvisible : Obligations.LeadingZerosAreInvisible := by
  refine ⟨fun k s => ?_, crc8From_zero_zeros⟩
  rw [crc8_append, crc8, crc8From_zero_zeros]
  rfl

/-! ## Frames that verify (R108) -/

/-- Settles O21. The frame is a body followed by its checksum, which is what VERIFY compares. -/
theorem everyBuiltFrameVerifies : Obligations.EveryBuiltFrameVerifies := by
  intro op s t u p hexec hvalid
  cases (exec_build op s).symm.trans hexec
  rw [(afterBuild_of_valid hvalid).2, sealed_take, sealed_checksum]
  obtain ⟨v, hrun, hmatch, herr, -⟩ :=
    verifyMacroAnswersTheComparison u p (layout (buildFields op s)) (crc8 (layout (buildFields op s)))
  rw [layout_length] at hrun
  have hequal : statusMatch v.status = true := hmatch.2 rfl
  exact ⟨v, hrun, hequal, by rw [herr, hequal]; rfl⟩

/-- 33 bytes verify exactly when their checksum, the checksum byte included, is 0 (R110). -/
theorem verifies_iff_crc8_eq_zero {f : List Byte} (h : f.length = 33) :
    crc8 (f.take 32) = byteAt f 32 ↔ crc8 f = 0x00#8 := by
  have hsplit : f = f.take 32 ++ [byteAt f 32] := by
    calc f = f.take 33 := (List.take_of_length_le h.le).symm
      _ = f.take 32 ++ [byteAt f 32] := by
        rw [take_eq_map_byteAt h.ge, take_eq_map_byteAt (by omega), List.range_succ, List.map_append,
          List.map_singleton]
  conv_rhs => rw [hsplit]
  exact residueIsZeroExactlyForTheChecksum.2.2 _ _

@[simp] theorem crc8From_left_inj {s : List Byte} {a b : Byte} : crc8From a s = crc8From b s ↔ a = b := by
  induction s generalizing a b with
  | nil => rfl
  | cons d s ih => rw [crc8From_cons, crc8From_cons, ih, crc8Step_left_inj]

/-- Replacing one byte changes the register after the sequence, from any start, unless the byte is the old one. -/
theorem crc8From_set_eq_iff {s : List Byte} {k : Nat} (a b : Byte) (hk : k < s.length) :
    crc8From a (s.set k b) = crc8From a s ↔ b = byteAt s k := by
  induction s generalizing a k with
  | nil => cases hk
  | cons d s ih =>
    cases k with
    | zero => simp [byteAt]
    | succ k => exact ih _ (Nat.lt_of_succ_lt_succ hk)

/-- Settles O25. By the residue the old frame has checksum 0, which the new one cannot share. -/
theorem oneByteChangeFailsVerification : Obligations.OneByteChangeFailsVerification := by
  intro f k b hlen hverifies hk hb hverifies'
  have hlen' : (f.set k b).length = 33 := by rw [List.length_set, hlen]
  have hold : crc8 f = 0x00#8 := (verifies_iff_crc8_eq_zero hlen).1 hverifies
  have hnew : crc8 (f.set k b) = 0x00#8 := (verifies_iff_crc8_eq_zero hlen').1 hverifies'
  exact hb ((crc8From_set_eq_iff 0x00#8 b (by omega)).1 (hnew.trans hold.symm))

end Sys2Proof.Machine

namespace Sys2Proof.Machine

/-! ## Changes of an odd number of bits (R113) -/

/-- The number of set bits of a byte. -/
def bitCount (b : Byte) : Nat := ((List.range 8).filter fun j => b.getLsbD j).length

theorem countP_xor_mod_two {α : Type} (p q : α → Bool) (l : List α) :
    l.countP (fun x => p x ^^ q x) % 2 = (l.countP p + l.countP q) % 2 := by
  induction l with
  | nil => rfl
  | cons x l ih =>
    simp only [List.countP_cons]
    cases p x <;> cases q x <;> simp <;> omega

theorem bitCount_xor_mod_two (a b : Byte) : bitCount (a ^^^ b) % 2 = (bitCount a + bitCount b) % 2 := by
  simp only [bitCount, ← List.countP_eq_length_filter, BitVec.getLsbD_xor]
  exact countP_xor_mod_two _ _ _

/-- A halved byte has lost its low bit. -/
theorem bitCount_eq_ushiftRight_one_add (r : Byte) :
    bitCount r = bitCount (r >>> 1) + if r.getLsbD 0 then 1 else 0 := by
  calc bitCount r = (List.range 9).countP fun j => r.getLsbD j := by
        rw [List.range_succ, List.countP_append, List.countP_singleton, getLsbD_eight, bitCount,
          List.countP_eq_length_filter]
        rfl
    _ = bitCount (r >>> 1) + if r.getLsbD 0 then 1 else 0 := by
        simp only [List.range_succ_eq_map (n := 8), List.countP_cons, List.countP_map, bitCount,
          ← List.countP_eq_length_filter, BitVec.getLsbD_ushiftRight, Nat.add_comm 1]
        rfl

/-- A shift keeps the parity: for a low bit that leaves, the three terms of the polynomial enter. -/
theorem bitCount_crc8Shift_mod_two (r : Byte) : bitCount (crc8Shift r) % 2 = bitCount r % 2 := by
  have hpoly : bitCount 0x8C#8 = 3 := rfl
  rw [bitCount_eq_ushiftRight_one_add r, crc8Shift]
  split
  · rw [bitCount_xor_mod_two, hpoly]
    omega
  · rfl

theorem bitCount_crc8Rounds_mod_two (n : Nat) (r : Byte) : bitCount (crc8Rounds n r) % 2 = bitCount r % 2 := by
  induction n generalizing r with
  | zero => rfl
  | succ n ih => rw [crc8Rounds, ih, bitCount_crc8Shift_mod_two]

theorem bitCount_crc8From_mod_two (a : Byte) (e : List Byte) :
    bitCount (crc8From a e) % 2 = (bitCount a + (e.map bitCount).sum) % 2 := by
  induction e generalizing a with
  | nil => rfl
  | cons d e ih =>
    have hstep : bitCount (crc8Step a d) % 2 = (bitCount a + bitCount d) % 2 := by
      rw [crc8Step_eq, bitCount_crc8Rounds_mod_two, bitCount_xor_mod_two]
    rw [crc8From_cons, ih, List.map_cons, List.sum_cons]
    omega

/-- Settles O26. The checksum keeps the parity of the change, and 0 has even parity. -/
theorem oddBitChangeIsDetected : Obligations.OddBitChangeIsDetected := by
  intro e hodd hzero
  have hparity := bitCount_crc8From_mod_two 0x00#8 e
  have hnone : bitCount 0x00#8 = 0 := rfl
  rw [← crc8, hzero, hnone, Nat.zero_add] at hparity
  exact absurd (hparity.trans hodd) (by decide)

/-! ## A frame as one number: bursts and two-bit changes (R113) -/

/-- The low `n` bytes of a number, as `frameOfNat` lists the 33 of a frame. -/
def bytesOfNat (n w : Nat) : List Byte := (List.range n).map fun k => BitVec.ofNat 8 (w >>> (8 * k))

theorem frameOfNat_eq_bytesOfNat (w : Nat) : frameOfNat w = bytesOfNat 33 w := rfl

theorem bytesOfNat_succ (n w : Nat) : bytesOfNat (n + 1) w = BitVec.ofNat 8 w :: bytesOfNat n (w / 2 ^ 8) := by
  simp [bytesOfNat, List.range_succ_eq_map, Nat.mul_add, Nat.add_comm _ 8, Nat.shiftRight_eq_div_pow, Nat.pow_add,
    Nat.div_div_eq_div_mul]

theorem mod_xor_div_mul (w n : Nat) : w % 2 ^ n ^^^ w / 2 ^ n * 2 ^ n = w := by
  rw [← Nat.shiftRight_eq_div_pow, ← Nat.shiftLeft_eq]
  refine Nat.eq_of_testBit_eq fun j => ?_
  simp only [Nat.testBit_xor, Nat.testBit_mod_two_pow, Nat.testBit_shiftLeft, Nat.testBit_shiftRight]
  by_cases hj : j < n
  · simp [hj, Nat.not_le.2 hj]
  · simp [hj, Nat.not_lt.1 hj]

/-- The checksum shifts the whole number through the register, one shift for each bit. -/
theorem toNat_crc8From_bytesOfNat {n w : Nat} (a : Byte) (hw : w < 2 ^ (8 * n)) :
    (crc8From a (bytesOfNat n w)).toNat = shiftNat^[8 * n] (a.toNat ^^^ w) := by
  induction n generalizing a w with
  | zero =>
    have h0 : w = 0 := by simpa using hw
    rw [h0, Nat.xor_zero]
    rfl
  | succ n ih =>
    have hrest : w / 2 ^ 8 < 2 ^ (8 * n) := Nat.div_lt_of_lt_mul (by rwa [← Nat.pow_add, Nat.add_comm])
    have hbyte : (BitVec.ofNat 8 w).toNat = w % 2 ^ 8 := BitVec.toNat_ofNat w 8
    calc (crc8From a (bytesOfNat (n + 1) w)).toNat
        = shiftNat^[8 * n] (shiftNat^[8] (a.toNat ^^^ w % 2 ^ 8) ^^^ w / 2 ^ 8) := by
          rw [bytesOfNat_succ, crc8From_cons, ih _ hrest, toNat_crc8Step, hbyte]
      _ = shiftNat^[8 * n] (shiftNat^[8] (a.toNat ^^^ w % 2 ^ 8 ^^^ w / 2 ^ 8 * 2 ^ 8)) := by
          rw [iterate_shiftNat_xor 8 _ (w / 2 ^ 8 * 2 ^ 8), iterate_shiftNat_mul_two_pow]
      _ = shiftNat^[8 * (n + 1)] (a.toNat ^^^ w) := by
          rw [Nat.xor_assoc, mod_xor_div_mul, ← Function.iterate_add_apply, Nat.mul_succ]

/-- A pattern at bit `j` meets only the shifts after the first `j`. -/
theorem crc8_bytesOfNat_mul_two_pow_eq_zero_iff {m n b j : Nat} (hm : 8 * m = n + j) (hb : b < 2 ^ n) :
    crc8 (bytesOfNat m (b * 2 ^ j)) = 0x00#8 ↔ shiftNat^[n] b = 0 := by
  have hw : b * 2 ^ j < 2 ^ (8 * m) := by
    rw [hm, Nat.pow_add]
    exact Nat.mul_lt_mul_of_pos_right hb (Nat.two_pow_pos j)
  have hvalue : (crc8 (bytesOfNat m (b * 2 ^ j))).toNat = shiftNat^[n] b := by
    rw [crc8, toNat_crc8From_bytesOfNat _ hw, BitVec.toNat_zero, Nat.zero_xor, hm, Function.iterate_add_apply,
      iterate_shiftNat_mul_two_pow]
  rw [BitVec.toNat_eq, hvalue, BitVec.toNat_zero]

theorem crc8_frameOfNat_mul_two_pow_eq_zero_iff {n b j : Nat} (hn : 264 = n + j) (hb : b < 2 ^ n) :
    crc8 (frameOfNat (b * 2 ^ j)) = 0x00#8 ↔ shiftNat^[n] b = 0 := by
  rw [frameOfNat_eq_bytesOfNat]
  exact crc8_bytesOfNat_mul_two_pow_eq_zero_iff hn hb

/-- After its first shift a pattern of 9 bits is a byte. -/
theorem iterate_succ_shiftNat_eq_zero_iff (n : Nat) {b : Nat} (hb : b < 512) :
    shiftNat^[n + 1] b = 0 ↔ b = 0 ∨ b = 0x119 := by
  rw [Function.iterate_succ_apply, iterate_shiftNat_eq_zero_iff n (shiftNat_lt hb), shiftNat_eq_zero_iff]

theorem lt_of_mul_two_pow_lt {b j m : Nat} (hb : 0 < b) (h : b * 2 ^ j < 2 ^ m) : j < m :=
  (Nat.pow_lt_pow_iff_right Nat.one_lt_two).1 ((Nat.le_mul_of_pos_left _ hb).trans_lt h)

/-- Settles O27. A byte never shifts to 0, and of the 9-bit patterns the full polynomial alone does. -/
theorem shortBurstIsDetected : Obligations.ShortBurstIsDetected := by
  refine ⟨fun b j hpos hbyte hfits => ?byte, fun b j hlow hhigh _ hj => ?nine⟩
  case byte =>
    have hj : j < 264 := lt_of_mul_two_pow_lt hpos hfits
    obtain ⟨n, hn⟩ : ∃ n, 264 = n + j := ⟨264 - j, by omega⟩
    rw [hn, Nat.pow_add] at hfits
    rw [Ne, crc8_frameOfNat_mul_two_pow_eq_zero_iff hn (Nat.lt_of_mul_lt_mul_right hfits),
      iterate_shiftNat_eq_zero_iff n hbyte]
    exact hpos.ne'
  case nine =>
    obtain ⟨n, hn⟩ : ∃ n, 264 = n + 9 + j := ⟨255 - j, by omega⟩
    have hb : b < 2 ^ (n + 9) := hhigh.trans_le (Nat.pow_le_pow_right (n := 2) (by decide) (Nat.le_add_left 9 n))
    rw [crc8_frameOfNat_mul_two_pow_eq_zero_iff hn hb, iterate_succ_shiftNat_eq_zero_iff (n + 8) hhigh]
    omega

/-- The polynomial has order 127: after that many shifts a single bit is back for the first time. As 127 is prime, no
smaller number has to be tried but 1. -/
theorem iterate_shiftNat_one_eq_one_iff {d : Nat} : shiftNat^[d] 1 = 1 ↔ 127 ∣ d := by
  have hback : shiftNat^[127] 1 = 1 := by decide +kernel
  have hmoves : ¬ shiftNat 1 = 1 := by decide
  have hperiod : Function.minimalPeriod shiftNat 1 = 127 :=
    have : Fact (Nat.Prime 127) := ⟨by norm_num⟩
    Function.minimalPeriod_eq_prime hback hmoves
  rw [← hperiod]
  exact Function.isPeriodicPt_iff_minimalPeriod_dvd

theorem one_add_two_pow_eq_xor {d : Nat} (hd : 0 < d) : 1 + 2 ^ d = 1 ^^^ 1 * 2 ^ d := by
  have h1 : 1 < 2 ^ d := Nat.one_lt_two_pow hd.ne'
  have hmod : (1 + 2 ^ d) % 2 ^ d = 1 := by rw [Nat.add_mod_right, Nat.mod_eq_of_lt h1]
  have hdiv : (1 + 2 ^ d) / 2 ^ d = 1 := by rw [Nat.add_div_right 1 (Nat.two_pow_pos d), Nat.div_eq_of_lt h1]
  have hsplit := mod_xor_div_mul (1 + 2 ^ d) d
  rw [hmod, hdiv] at hsplit
  exact hsplit.symm

/-- Two bits at distance `d` shift to 0 exactly when `d` shifts bring the lower one to the place of the upper one. -/
theorem iterate_shiftNat_two_bits_eq_zero_iff {n d : Nat} (hd : 0 < d) (hn : d ≤ n) :
    shiftNat^[n] (1 + 2 ^ d) = 0 ↔ 127 ∣ d := by
  obtain ⟨m, rfl⟩ := Nat.exists_eq_add_of_le' hn
  have hbyte : shiftNat^[d] 1 ^^^ 1 < 256 :=
    Nat.xor_lt_two_pow (n := 8) (iterate_shiftNat_lt d (by decide)) (by decide)
  rw [one_add_two_pow_eq_xor hd, Function.iterate_add_apply, iterate_shiftNat_xor, iterate_shiftNat_mul_two_pow,
    iterate_shiftNat_eq_zero_iff m hbyte, Nat.xor_eq_zero_iff, iterate_shiftNat_one_eq_one_iff]

/-- Settles O28. -/
theorem twoBitChangeIsMissedOnlyAt127Or254 : Obligations.TwoBitChangeIsMissedOnlyAt127Or254 := by
  intro i j hij hj
  have hfactor : 2 ^ i + 2 ^ j = (1 + 2 ^ (j - i)) * 2 ^ i := by
    rw [Nat.add_mul, ← Nat.pow_add, Nat.sub_add_cancel hij.le, Nat.one_mul]
  have hb : 1 + 2 ^ (j - i) < 2 ^ (264 - i) :=
    calc 1 + 2 ^ (j - i) < 2 ^ (j - i) + 2 ^ (j - i) := Nat.add_lt_add_right (Nat.one_lt_two_pow (by omega)) _
      _ = 2 ^ (j - i + 1) := (Nat.two_pow_succ _).symm
      _ ≤ 2 ^ (264 - i) := Nat.pow_le_pow_right (by decide) (by omega)
  rw [hfactor, crc8_frameOfNat_mul_two_pow_eq_zero_iff (by omega) hb,
    iterate_shiftNat_two_bits_eq_zero_iff (by omega) (by omega)]
  omega

end Sys2Proof.Machine

namespace Sys2Proof.Machine

/-! ## The bytes of the fields, read as integers (R10, R12) -/

theorem extractLsb'_eq_natByte {w : Nat} (v : BitVec w) (k : Nat) : v.extractLsb' (8 * k) 8 = natByte v.toNat k := by
  apply BitVec.eq_of_toNat_eq
  rw [BitVec.extractLsb'_toNat, natByte, BitVec.toNat_ofNat, Nat.shiftRight_eq_div_pow, Nat.pow_mul]

theorem le32_eq_natByte (v : BitVec 32) :
    le32 v = ⟨natByte v.toNat 0, natByte v.toNat 1, natByte v.toNat 2, natByte v.toNat 3⟩ := by
  simp only [← extractLsb'_eq_natByte]
  rfl

theorem be16_eq_natByte (v : BitVec 16) : be16 v = ⟨natByte v.toNat 1, natByte v.toNat 0⟩ := by
  simp only [← extractLsb'_eq_natByte]
  rfl

@[simp] theorem natByte_toNat_zero (b : Byte) : natByte b.toNat 0 = b := by
  rw [← extractLsb'_eq_natByte]
  exact BitVec.extractLsb'_eq_self

/-! ## BUILD's completions (R130, R139, R140) -/

theorem usesCounter32_iff {kind : StrategyKind} : usesCounter32 kind = true ↔ kind ≠ .rollingSessionId := by
  refine ⟨fun h hkind => ?_, usesCounter32_of_ne⟩
  cases hkind
  cases h

theorem counterFits_iff {c : BitVec 64} : counterFits c = true ↔ c.toNat ≤ 0xFFFFFFFF := decide_eq_true_iff

theorem buildFailed_emptied (e : ErrKind) (info : ErrField) (s : State) :
    BuildFailed (errCode e) (errFieldCode info) s (emptied (raise e info s)) where
  frame := frameBytes_emptied _
  valid := by simp
  err := by simp
  errField := by simp
  matchBit := by simp
  acc := rfl
  cfg := rfl
  ports := rfl
  pending := rfl

/-- A BUILD whose checks find an error completes with that error. -/
theorem exists_buildFailed {op : Byte} {s : State} {e : ErrKind} {info : ErrField}
    (h : buildError op s = some (e, info)) :
    ∃ t, exec (.build op) s = .next t ∧ BuildFailed (errCode e) (errFieldCode info) s t := by
  refine ⟨_, exec_build op s, ?_⟩
  rw [afterBuild_of_error h]
  exact buildFailed_emptied e info s

/-- A BUILD whose checks find no error completes with the frame of its fields. -/
theorem exists_builtFrom {op : Byte} {s : State} (h : buildError op s = none) :
    ∃ t, exec (.build op) s = .next t ∧ BuiltFrom (layout (buildFields op s)) s t := by
  refine ⟨_, exec_build op s, ?_⟩
  rw [afterBuild_of_ok h]
  exact builtFrom_filled _ s

theorem exists_builtFrom_of_yields {kind : StrategyKind} {f : BodyFields} {s : State} (h : Yields kind f s) :
    ∃ t, exec (.build f.op) s = .next t ∧ BuiltFrom (layout f) s t := by
  obtain ⟨-, hok, hfields⟩ := h
  simpa only [hfields] using exists_builtFrom hok

theorem buildError_of_illegal_opcode {op : Byte} (s : State) (h1 : op ≠ 0x01#8) (h2 : op ≠ 0x02#8) :
    buildError op s = some (.invalidOpcode, .none) := if_pos ⟨h1, h2⟩

theorem buildError_of_wide_counter {op : Byte} {s : State} (hop : op = 0x01#8 ∨ op = 0x02#8)
    (hkind : s.cfg.kind ≠ .rollingSessionId) (hctr : 0xFFFFFFFF < s.ports.ctr.toNat) :
    buildError op s = some (.fieldOverflow, .nonce) := by
  have hwide : counterFits s.ports.ctr = false := decide_eq_false (by omega)
  have hlegal : ¬ (op ≠ 0x01#8 ∧ op ≠ 0x02#8) := by tauto
  rw [buildError, if_neg hlegal, usesCounter32_iff.2 hkind, hwide]
  rfl

/-- Settles O33. -/
theorem buildRejectsOtherOpcodes : Obligations.BuildRejectsOtherOpcodes :=
  fun _ s h1 h2 => exists_buildFailed (buildError_of_illegal_opcode s h1 h2)

/-- Settles O34. The two clauses are the two answers of the range check. -/
theorem buildRejectsWideCounters : Obligations.BuildRejectsWideCounters := by
  intro op s hop
  refine ⟨fun hkind hctr => exists_buildFailed (buildError_of_wide_counter hop hkind hctr), fun hfits => ?_⟩
  have hcheck : usesCounter32 s.cfg.kind = true → counterFits s.ports.ctr = true := fun huses =>
    counterFits_iff.2 (hfits.resolve_left (usesCounter32_iff.1 huses))
  obtain ⟨t, hexec, hbuilt⟩ := exists_builtFrom ((buildError_eq_none_iff op s).2 ⟨hop, hcheck⟩)
  exact ⟨t, hexec, hbuilt.err, hbuilt.errField, hbuilt.valid⟩

/-! ## The frame of each strategy (R132 to R135) -/

theorem layout_fieldsCe (n : BitVec 32) (op : Byte) :
    layout (fieldsCe n op) =
      [natByte n.toNat 0, natByte n.toNat 1, natByte n.toNat 2, natByte n.toNat 3,
        natByte n.toNat 0, natByte n.toNat 1, natByte n.toNat 2, natByte n.toNat 3] ++ zeros 16 ++ [op] ++ zeros 7 := by
  rw [fieldsCe, le32_eq_natByte]
  rfl

theorem layout_fieldsCws (n : BitVec 32) (m : Bytes4) (g : Bytes2) (v : BitVec 16) (op : Byte) :
    layout (fieldsCws n m g v op) =
      [natByte n.toNat 0, natByte n.toNat 1, natByte n.toNat 2, natByte n.toNat 3,
        natByte n.toNat 0, natByte n.toNat 1, natByte n.toNat 2, natByte n.toNat 3,
        m.b0, m.b1, m.b2, m.b3, g.b0, g.b1, 0x00#8, 0x00#8,
        natByte v.toNat 1, natByte v.toNat 0, natByte v.toNat 1, natByte v.toNat 0]
        ++ zeros 4 ++ [op] ++ zeros 7 := by
  rw [fieldsCws, le32_eq_natByte, be16_eq_natByte]
  rfl

theorem layout_fieldsTo (n : BitVec 32) (hh mm op : Byte) :
    layout (fieldsTo n hh mm op) =
      [natByte n.toNat 0, natByte n.toNat 1, natByte n.toNat 2, natByte n.toNat 3,
        natByte n.toNat 0, natByte n.toNat 1, natByte n.toNat 2, natByte n.toNat 3]
        ++ zeros 8 ++ [hh, mm, hh, mm] ++ zeros 4 ++ [op] ++ zeros 7 := by
  rw [fieldsTo, le32_eq_natByte]
  rfl

/-- Settles O35. -/
theorem buildCounterEchoFrame : Obligations.BuildCounterEchoFrame := by
  rintro op s c hop hkind rfl hc
  have hn := counter32_toNat (counterFits_iff.2 hc)
  rw [← hn, ← layout_fieldsCe]
  exact exists_builtFrom_of_yields (yields_counterEcho hop hkind hn.symm)

/-- What the host reads at `CFG[1..6]` is the marker and the signature (R23). -/
theorem marker_sig_of_hostCfg {s : State} {m0 m1 m2 m3 g0 g1 : Byte} (h1 : hostCfg 1 s = some m0)
    (h2 : hostCfg 2 s = some m1) (h3 : hostCfg 3 s = some m2) (h4 : hostCfg 4 s = some m3)
    (h5 : hostCfg 5 s = some g0) (h6 : hostCfg 6 s = some g1) :
    s.cfg.marker = ⟨m0, m1, m2, m3⟩ ∧ s.cfg.sig = ⟨g0, g1⟩ := by
  cases h1; cases h2; cases h3; cases h4; cases h5; cases h6
  exact ⟨rfl, rfl⟩

/-- `BSEL` picks the width of the bucket (R23, R166). -/
theorem div_bucketWidth (c : Cfg) (t : Nat) : t / c.bucketWidth = if c.ctrl.getLsbD 2 then t / 60 else t / 30 :=
  apply_ite (t / ·) _ _ _

/-- Settles O36. -/
theorem buildCounterWithSignatureFrame : Obligations.BuildCounterWithSignatureFrame := by
  rintro op s c v m0 m1 m2 m3 g0 g1 hop hkind rfl hc hv h1 h2 h3 h4 h5 h6
  obtain ⟨hmarker, hsig⟩ := marker_sig_of_hostCfg h1 h2 h3 h4 h5 h6
  have hn := counter32_toNat (counterFits_iff.2 hc)
  have hbucket := bucketValue_toNat s.cfg.bucketWidth s.ports.unixTime
  have hyields := yields_counterWithSignature hop hkind hn.symm hmarker hsig hbucket.symm
  have hbuilt := exists_builtFrom_of_yields hyields
  rwa [layout_fieldsCws, hbucket, hn, div_bucketWidth, ← hv] at hbuilt

theorem sessionTag_of_digest {t : BitVec 64} {d : DigestOutput} (h : Config.digest (dec (t.toNat / 300)) = d) :
    sessionTag t = ⟨d.b0, d.b1, d.b2⟩ := by
  rw [← h]
  rfl

/-- Settles O37. The digest enters through the three bytes of the session tag only. -/
theorem buildRollingSessionIdFrame : Obligations.BuildRollingSessionIdFrame := by
  rintro op s c d hop hkind rfl hd
  have hbyte : (counterByte s.ports.ctr).toNat = s.ports.ctr.toNat % 256 := BitVec.extractLsb'_toNat 0 8 _
  rw [← hbyte, natByte_toNat_zero]
  exact exists_builtFrom_of_yields
    (yields_rollingSessionId hop hkind hbyte.symm (sessionTag_of_digest hd) rfl rfl)

/-- Settles O38. -/
theorem buildTickOnlyFrame : Obligations.BuildTickOnlyFrame := by
  rintro op s c hop hkind rfl hc
  have hn := counter32_toNat (counterFits_iff.2 hc)
  rw [← hn, ← layout_fieldsTo]
  exact exists_builtFrom_of_yields (yields_tickOnly hop hkind hn.symm rfl rfl)

/-! ## What BUILD does not read -/

/-- Times in one 300-second bucket have the same session tag (R163). -/
theorem sessionTag_congr {t1 t2 : BitVec 64} (h : t1.toNat / 300 = t2.toNat / 300) : sessionTag t1 = sessionTag t2 := by
  rw [sessionTag, sessionTag, bucket, bucket, h]

/-- Under RollingSessionId BUILD takes `UNIX_TIME` through the session tag only (R134). -/
theorem afterBuild_of_same_bucket (op : Byte) {s : State} {q : Ports} (hkind : s.cfg.kind = .rollingSessionId)
    (hctr : q.ctr = s.ports.ctr) (hbucket : q.unixTime.toNat / 300 = s.ports.unixTime.toNat / 300)
    (hhour : q.utcHour = s.ports.utcHour) (hmin : q.utcMin = s.ports.utcMin) :
    afterBuild op { s with ports := q } = { afterBuild op s with ports := q } := by
  have hfields : buildFields op { s with ports := q } = buildFields op s := by
    rw [buildFields_rollingSessionId op hkind, buildFields_rollingSessionId (s := { s with ports := q }) op hkind]
    simp only [hctr, sessionTag_congr hbucket, hhour, hmin]
  exact afterBuild_congr_ports op (buildError_congr_ports op hctr) hfields

/-- Settles O32. The second BUILD's state is the first one's with the other port levels. -/
theorem sameBucketGivesTheSameSessionFrame : Obligations.SameBucketGivesTheSameSessionFrame := by
  intro op s t1 t2 hkind hbucket
  have hsame := afterBuild_of_same_bucket op (s := { s with ports := { s.ports with unixTime := t1 } })
    (q := { s.ports with unixTime := t2 }) hkind rfl hbucket.symm rfl rfl
  exact ⟨_, _, exec_build op _, (exec_build op _).trans (congrArg _ hsame), rfl, rfl⟩

/-- BUILD carries `ACC` through (R131). -/
theorem afterBuild_with_acc (op a : Byte) (s : State) :
    afterBuild op { s with acc := a } = { afterBuild op s with acc := a } := by
  cases h : buildError op s with
  | none => rw [afterBuild_of_ok h, afterBuild_of_ok (s := { s with acc := a }) h]; rfl
  | some e => rw [afterBuild_of_error h, afterBuild_of_error (s := { s with acc := a }) h]; rfl

/-- Settles O41. -/
theorem buildNeitherReadsNorWritesTheAccumulator : Obligations.BuildNeitherReadsNorWritesTheAccumulator := by
  intro op a s
  refine ⟨afterBuild op s, exec_build op s, ?_, by simp, by simp, by simp⟩
  rw [exec_build, afterBuild_with_acc]

/-- Either end of BUILD stores all 33 bytes, so nothing of the FRAME before is left (R141). -/
theorem afterBuild_with_frame (op : Byte) (s : State) (m : Memory) :
    frameBytes (afterBuild op { s with frame := m }).frame = frameBytes (afterBuild op s).frame ∧
      (afterBuild op { s with frame := m }).status = (afterBuild op s).status := by
  cases h : buildError op s with
  | none =>
    rw [afterBuild_of_ok h, afterBuild_of_ok (s := { s with frame := m }) h, frameBytes_filled, frameBytes_filled]
    exact ⟨rfl, rfl⟩
  | some e =>
    rw [afterBuild_of_error h, afterBuild_of_error (s := { s with frame := m }) h, frameBytes_emptied,
      frameBytes_emptied]
    exact ⟨rfl, rfl⟩

/-- Settles O42. -/
theorem buildReusesNothingOfAnEarlierFrame : Obligations.BuildReusesNothingOfAnEarlierFrame :=
  fun op s m => ⟨_, _, exec_build op s, exec_build op _, afterBuild_with_frame op s m⟩

/-! ## RELEASE and NOP (R142, R143) -/

theorem exec_release (s : State) : exec .release s = .next (emptied s) := discardFrame_eq s

/-- Without a held frame the invariant leaves nothing to discard: FRAME is zero, and canonical (R27). -/
theorem emptied_eq_self {s : State} (h : CoreInv s) (hv : statusFrameValid s.status = false) : emptied s = s := by
  have hwf : (s.frame.store 0 (zeros 33)).wf = true := Memory.wf_store (by simp) h.frameWf
  have hframe : s.frame.store 0 (zeros 33) = s.frame :=
    Memory.ext_of_wf hwf h.frameWf ((frameBytes_emptied s).trans (h.released hv).symm)
  have hstatus : withFrameValid s.status false = s.status := status_ext (by simp) (by simp) (by simp [hv]) (by simp)
  rw [emptied, hframe, hstatus]

/-- Settles O44. -/
theorem releaseDiscardsTheFrame : Obligations.ReleaseDiscardsTheFrame := by
  refine ⟨fun s => ⟨_, exec_release s, frameBytes_emptied s, ?_⟩, fun s h hv => ?_⟩
  · simp [emptied]
  · rw [exec_release, emptied_eq_self h hv]

/-- Settles O45. -/
theorem nopChangesNothing : Obligations.NopChangesNothing := fun _ => rfl

/-! ## A held frame along a stream (R141, R237) -/

/-- A decoded command is no frame row, so it is a BUILD only under its own name. -/
theorem not_isBuild_of_decodeCommand {cw : BitVec 16} {i : Instr} (hd : decodeCommand cw = .ok i)
    (hbuild : ∀ op, i ≠ .build op) : ¬ IsBuild i := by
  rintro (⟨op, rfl⟩ | hframe)
  · exact hbuild op rfl
  · exact hframe (frameKind_of_encode_command (encode_of_decodeCommand hd))

/-- A command other than BUILD and RELEASE, taken from the stream, leaves FRAME and `FRAME_VALID`. -/
theorem frame_of_step_given_command {cw : BitVec 16} {p : Ports} {i : Instr} {l : List Input} {s u : State}
    (hd : decodeCommand cw = .ok i) (hrelease : i ≠ .release) (hbuild : ∀ op, i ≠ .build op)
    (h : step (s.given (.command cw p :: l)) = .next u) :
    u.frame = s.frame ∧ statusFrameValid u.status = statusFrameValid s.status := by
  have hexec : exec i { s.given l with ports := p } = .next u := (step_present p (s.given l) hd).symm.trans h
  exact (frame_of_completion (completion_of_exec hexec)).resolve_right
    (not_or.2 ⟨hrelease, not_isBuild_of_decodeCommand hd hbuild⟩)

/-- Settles O53, by induction on the stream. -/
theorem heldFrameIsFrozen : Obligations.HeldFrameIsFrozen := by
  intro l s t hl h
  induction l generalizing s with
  | nil => cases h; exact ⟨rfl, rfl⟩
  | cons x l ih =>
    obtain ⟨u, hstep, hrest⟩ := andThen_eq_next h
    obtain ⟨cw, p, i, rfl, hd, hrelease, hbuild⟩ := hl x List.mem_cons_self
    obtain ⟨hframe, hvalid⟩ := frame_of_step_given_command hd hrelease hbuild hstep
    rw [eq_given_of_pending (step_given_cons hstep).1] at hrest
    obtain ⟨hframe', hvalid'⟩ := ih _ (fun y hy => hl y (List.mem_cons_of_mem _ hy)) hrest
    exact ⟨hframe'.trans hframe, hvalid'.trans hvalid⟩

end Sys2Proof.Machine

namespace Sys2Proof.Machine

/-! ## The configuration bytes (R51, R172) -/

@[simp] theorem Cfg.read_write_self (c : Cfg) {k : Nat} (d : Byte) (hk : k ≤ 6) : (c.write k d).read k = some d := by
  interval_cases k <;> rfl

@[simp] theorem Cfg.read_write_of_ne (c : Cfg) {j k : Nat} (d : Byte) (hjk : j ≠ k) :
    (c.write k d).read j = c.read j := by
  by_cases hj : j ≤ 6
  · unfold Cfg.write
    interval_cases j <;> split <;> trivial
  · obtain ⟨n, rfl⟩ : ∃ n, j = n + 7 := ⟨j - 7, by omega⟩
    rfl

/-- A form of CFG_WR is `writeCfg` at its `idx`, so it changes what the host reads there and nothing else. -/
theorem writesCfg_of_exec {i : Instr} {k : Nat} {d : Byte} {s : State} (hk : k ≤ 6)
    (he : exec i s = .next (writeCfg k d s)) : WritesCfg k d i s := by
  refine ⟨writeCfg k d s, he, fun j => ?_, rfl, rfl, rfl, rfl, rfl⟩
  split
  · next hj => rw [hj, hostCfg, writeCfg_cfg, Cfg.read_write_self _ d hk]
  · next hj => rw [hostCfg, writeCfg_cfg, Cfg.read_write_of_ne _ d hj, hostCfg]

/-- Settles O29. CTRL is the one form whose completion depends on its operand. -/
theorem configWriteStoresItsByte : Obligations.ConfigWriteStoresItsByte := fun _ s =>
  ⟨fun hd => writesCfg_of_exec (by decide) (execCfgWrCtrl_of_legal s hd), writesCfg_of_exec (by decide) rfl,
    writesCfg_of_exec (by decide) rfl, writesCfg_of_exec (by decide) rfl, writesCfg_of_exec (by decide) rfl,
    writesCfg_of_exec (by decide) rfl, writesCfg_of_exec (by decide) rfl⟩

end Sys2Proof.Machine

namespace Sys2Proof.Machine

/-! ## Legal commands and legal streams complete (R198, R220)

Only CTRL's reserved bits and the frame rows (log entries 9 and 5) can be refused by their meaning, and no legal word
decodes to either. -/

/-- A well-formed command completes from every state. -/
theorem exists_exec_eq_next {i : Instr} (s : State) (hwf : i.WellFormed) (hcommand : i.frameKind = none) :
    ∃ t, exec i s = .next t := by
  cases i with
  | crcCmp d =>
    by_cases heq : s.acc = d
    · exact ⟨_, if_pos heq⟩
    · exact ⟨_, if_neg heq⟩
  | cfgWrCtrl d => exact ⟨_, if_pos hwf⟩
  | build op => exact ⟨_, exec_build op s⟩
  | release => exact ⟨_, exec_release s⟩
  | nop | crcClr | crcUpd | cfgWrMarker0 | cfgWrMarker1 | cfgWrMarker2 | cfgWrMarker3 | cfgWrSig0 | cfgWrSig1 =>
    exact ⟨_, rfl⟩
  | frameCeOpen | frameCeClose | frameCwsOpen | frameCwsClose | frameRsiOpen | frameRsiClose | frameToOpen
  | frameToClose => cases hcommand

/-- What a legal word decodes to completes: it is well-formed and no frame row. -/
theorem exists_exec_eq_next_of_decodeCommand {cw : BitVec 16} {i : Instr} (s : State) (hd : decodeCommand cw = .ok i) :
    ∃ t, exec i s = .next t :=
  exists_exec_eq_next s (wellFormed_of_decodeCommand hd) (frameKind_of_encode_command (encode_of_decodeCommand hd))

/-- A legal command at the head of the stream completes, and its entry alone is taken. -/
theorem exists_step_eq_next_of_legalWord {s : State} {cw : BitVec 16} {p : Ports} {rest : List Input}
    (hp : s.pending = .command cw p :: rest) (hcw : LegalWord cw) : ∃ t, step s = .next t ∧ t.pending = rest := by
  obtain ⟨i, hd⟩ := hcw
  obtain ⟨t, he⟩ := exists_exec_eq_next_of_decodeCommand { s with ports := p, pending := rest } hd
  refine ⟨t, ?_, (inputs_of_completion (completion_of_exec he)).2⟩
  rw [step_of_fetch_command (fetch_of_pending_command hp), runWord_of_decode _ hd, he]

theorem legalStream_cons {x : Input} {l : List Input} :
    LegalStream (x :: l) ↔ (∀ cw p, x = .command cw p → LegalWord cw) ∧ LegalStream l := by
  simp only [LegalStream, List.mem_cons, or_imp, forall_and, eq_comm]

/-- One entry of a legal stream, a command or a reset. -/
theorem exists_step_given_cons {x : Input} (l : List Input) (s : State)
    (hx : ∀ cw p, x = .command cw p → LegalWord cw) :
    ∃ u, step (s.given (x :: l)) = .next u ∧ u.pending = l ++ s.pending := by
  cases x with
  | reset => exact ⟨_, rfl, rfl⟩
  | command cw p => exact exists_step_eq_next_of_legalWord rfl (hx cw p rfl)

/-- A legal stream runs to its end, and what else was pending is left, by induction on the stream. -/
theorem exists_steps_given_of_legalStream {l : List Input} (s : State) (hl : LegalStream l) :
    ∃ t, steps l.length (s.given l) = .next t ∧ t.pending = s.pending := by
  induction l generalizing s with
  | nil => exact ⟨s, rfl, rfl⟩
  | cons x l ih =>
    obtain ⟨hx, htail⟩ := legalStream_cons.1 hl
    obtain ⟨u, hstep, hp⟩ := exists_step_given_cons l s hx
    rw [eq_given_of_pending hp] at hstep
    obtain ⟨t, hrun, hpt⟩ := ih { u with pending := s.pending } htail
    exact ⟨t, (steps_given_cons l.length hstep).trans hrun, hpt⟩

/-- Settles O8. -/
theorem everyLegalCommandCompletes : Obligations.EveryLegalCommandCompletes :=
  ⟨fun _ _ _ _ hp hcw => exists_step_eq_next_of_legalWord hp hcw,
    fun _ s hl => exists_steps_given_of_legalStream s hl⟩

end Sys2Proof.Machine

namespace Sys2Proof.Machine

/-! ## The step that runs no command (R220, R221) -/

theorem fetch_of_pending_nil {s : State} (hp : s.pending = []) : fetch s = .idle := by
  rw [fetch, hp]

/-- A reset entry at the head of the stream is taken from it, and reset is asserted in what is left (R220). -/
theorem fetch_of_pending_reset {s : State} {rest : List Input} (hp : s.pending = .reset :: rest) :
    fetch s = .reset (assertReset { s with pending := rest }) := by
  rw [fetch, hp]

theorem step_of_pending_nil {s : State} (hp : s.pending = []) : step s = .next s := by
  rw [step, fetch_of_pending_nil hp]

theorem step_of_pending_reset {s : State} {rest : List Input} (hp : s.pending = .reset :: rest) :
    step s = .next (assertReset { s with pending := rest }) := by
  rw [step, fetch_of_pending_reset hp]

/-- With `FRAME_VALID` cleared, the invariant that reset establishes leaves only zeros in FRAME. -/
theorem frameBytes_assertReset (s : State) : frameBytes (assertReset s).frame = zeros 33 :=
  (coreInv_assertReset s).released (by rw [assertReset_status]; decide)

/-- Reset gives CFG the bytes that it has in the reset state (R34), whatever the state before. -/
theorem hostCfg_assertReset (s : State) {i : Nat} (hi : i ≤ 6) : hostCfg i (assertReset s) = some 0x00#8 := by
  obtain ⟨-, -, hcfg, -⟩ := resetLeavesEveryRegisterZero
  have hsame : hostCfg i (assertReset s) = hostCfg i State.reset := rfl
  rw [hsame, hcfg i hi]

/-- Settles O2. The step asserts reset, and each register is read after it. -/
theorem resetEventRestoresEveryRegister : Obligations.ResetEventRestoresEveryRegister := by
  intro s rest hp
  exact ⟨_, step_of_pending_reset hp, assertReset_acc _, frameBytes_assertReset _, fun _ hi => hostCfg_assertReset _ hi,
    assertReset_status _, assertReset_pending _⟩

/-- Settles O4. -/
theorem stepWithoutCommandChangesNothing : Obligations.StepWithoutCommandChangesNothing :=
  fun _ hp => step_of_pending_nil hp

end Sys2Proof.Machine
